-- ==== Sys2Proof/Word.lean ====
section
/-! DEFINITION. The word types of CHIP-8 CORE and their plainest arithmetic (spec 00_scope.md R5, R8).
All values are unsigned; there is no signed operation in this hardware. -/

namespace Sys2Proof

/-- A memory byte or a general register (00_scope.md R5: register width 8 bits). -/
abbrev Byte := BitVec 8

/-- The program counter, the index register, a stack entry or an instruction word (00_scope.md R5). -/
abbrev Word := BitVec 16

/-- `zext_16` of 00_scope.md R8: widened to 16 bits with zero bits on the left. -/
def zext16 {n : Nat} (b : BitVec n) : Word := b.setWidth 16

end Sys2Proof
end

