-- ==== Sys2Proof/Syntax.lean ====
section
/-! DEFINITION. The instructions of CHIP-8 CORE: one constructor per row of spec/opcode_table.json
(30_encoding.md R66). Bits of a word that the operation ignores (R70: the low nibble of 5xy_ and 9xy_, `regY` of
the shifts, `addr12` of SYS) are kept as operands, so that the encoding of an instruction is one word and no more;
no meaning reads them. -/

namespace Sys2Proof

/-- A register number; all 16 values are legal (30_encoding.md R63). -/
abbrev Reg := Fin 16

/-- One constructor per row of the opcode map (30_encoding.md R66); the mnemonics are R74's. -/
inductive Instr where
  /-- 00E0: CLS (R161) -/
  | cls
  /-- 00EE: RET (R93) -/
  | ret
  /-- 0nnn, neither 00E0 nor 00EE: SYS nnn (R90) -/
  | sys (nnn : BitVec 12)
  /-- 1nnn: JP nnn (R91) -/
  | jp (nnn : BitVec 12)
  /-- 2nnn: CALL nnn (R92) -/
  | call (nnn : BitVec 12)
  /-- 3xkk: SE Vx, kk (R100) -/
  | seImm (x : Reg) (kk : Byte)
  /-- 4xkk: SNE Vx, kk (R101) -/
  | sneImm (x : Reg) (kk : Byte)
  /-- 5xy_: SE Vx, Vy (R102); the low nibble `n` is ignored -/
  | seReg (x y : Reg) (n : BitVec 4)
  /-- 6xkk: LD Vx, kk (R110) -/
  | ldImm (x : Reg) (kk : Byte)
  /-- 7xkk: ADD Vx, kk (R111) -/
  | addImm (x : Reg) (kk : Byte)
  /-- 8xy0: LD Vx, Vy (R113) -/
  | ldReg (x y : Reg)
  /-- 8xy1: OR Vx, Vy (R114) -/
  | orReg (x y : Reg)
  /-- 8xy2: AND Vx, Vy (R115) -/
  | andReg (x y : Reg)
  /-- 8xy3: XOR Vx, Vy (R116) -/
  | xorReg (x y : Reg)
  /-- 8xy4: ADD Vx, Vy (R117) -/
  | addReg (x y : Reg)
  /-- 8xy5: SUB Vx, Vy (R118) -/
  | subReg (x y : Reg)
  /-- 8xy6: SHR Vx (R119); `y` is ignored -/
  | shr (x y : Reg)
  /-- 8xy7: SUBN Vx, Vy (R120) -/
  | subnReg (x y : Reg)
  /-- 8xyE: SHL Vx (R121); `y` is ignored -/
  | shl (x y : Reg)
  /-- 9xy_: SNE Vx, Vy (R103); the low nibble `n` is ignored -/
  | sneReg (x y : Reg) (n : BitVec 4)
  /-- Annn: LD I, nnn (R131) -/
  | ldI (nnn : BitVec 12)
  /-- Bnnn: JP V0, nnn (R94) -/
  | jpV0 (nnn : BitVec 12)
  /-- Cxkk: RND Vx, kk (R122) -/
  | rnd (x : Reg) (kk : Byte)
  /-- Dxyn: DRW Vx, Vy, n (R162) -/
  | drw (x y : Reg) (n : BitVec 4)
  /-- Ex9E: SKP Vx (R149) -/
  | skp (x : Reg)
  /-- ExA1: SKNP Vx (R150) -/
  | sknp (x : Reg)
  /-- Fx07: LD Vx, DT (R146) -/
  | ldVxDT (x : Reg)
  /-- Fx0A: LD Vx, K (R151) -/
  | ldVxK (x : Reg)
  /-- Fx15: LD DT, Vx (R147) -/
  | ldDTVx (x : Reg)
  /-- Fx18: LD ST, Vx (R148) -/
  | ldSTVx (x : Reg)
  /-- Fx1E: ADD I, Vx (R132) -/
  | addI (x : Reg)
  /-- Fx29: LD F, Vx (R134) -/
  | ldF (x : Reg)
  /-- Fx33: LD B, Vx (R136) -/
  | ldB (x : Reg)
  /-- Fx55: LD [I], Vx (R138) -/
  | ldMemVx (x : Reg)
  /-- Fx65: LD Vx, [I] (R139) -/
  | ldVxMem (x : Reg)
  deriving DecidableEq, Repr

end Sys2Proof
end

