-- ==== Sys2Proof/Decode.lean ====
section
/-! DEFINITION. The decoder (spec 30_encoding.md R60 to R72), total on any bytes, and after it the encoder, written
from the same tables (R61, R62, R66). -/

namespace Sys2Proof

/-- `cat` = W[15:12] (30_encoding.md R61). -/
def catOf (w : Word) : BitVec 4 := w.extractLsb' 12 4

/-- `regX` = W[11:8] (30_encoding.md R61), as a register number. -/
def regXOf (w : Word) : Reg := (w.extractLsb' 8 4).toFin

/-- `regY` = W[7:4] (30_encoding.md R61), as a register number. -/
def regYOf (w : Word) : Reg := (w.extractLsb' 4 4).toFin

/-- `nibble` = W[3:0] (30_encoding.md R61). -/
def nibbleOf (w : Word) : BitVec 4 := w.extractLsb' 0 4

/-- `imm8` = W[7:0] (30_encoding.md R61). -/
def imm8Of (w : Word) : Byte := w.extractLsb' 0 8

/-- `addr12` = W[11:0] (30_encoding.md R61). -/
def addr12Of (w : Word) : BitVec 12 := w.extractLsb' 0 12

/-- Why a decode is refused. The first three are the illegal words of 30_encoding.md R71; the last is no word at
all, which only the byte-list form can meet. -/
inductive DecodeError where
  /-- category 0x8 with an unknown low nibble -/
  | unknownSubcode8
  /-- category 0xE with an unknown low byte -/
  | unknownSubcodeE
  /-- category 0xF with an unknown low byte -/
  | unknownSubcodeF
  /-- fewer than two bytes -/
  | truncated
  deriving DecidableEq, Repr

/-- Category 0x0: the full word selects; the default is the inert system call (30_encoding.md R65). -/
def decode0 (w : Word) : Instr :=
  if w = 0x00E0#16 then .cls else if w = 0x00EE#16 then .ret else .sys (addr12Of w)

/-- Category 0x8: the low 4 bits select among 9 operations (30_encoding.md R64, R67). -/
def decode8 (w : Word) : Except DecodeError Instr :=
  match (nibbleOf w).toNat with
  | 0x0 => .ok (.ldReg (regXOf w) (regYOf w))
  | 0x1 => .ok (.orReg (regXOf w) (regYOf w))
  | 0x2 => .ok (.andReg (regXOf w) (regYOf w))
  | 0x3 => .ok (.xorReg (regXOf w) (regYOf w))
  | 0x4 => .ok (.addReg (regXOf w) (regYOf w))
  | 0x5 => .ok (.subReg (regXOf w) (regYOf w))
  | 0x6 => .ok (.shr (regXOf w) (regYOf w))
  | 0x7 => .ok (.subnReg (regXOf w) (regYOf w))
  | 0xE => .ok (.shl (regXOf w) (regYOf w))
  | _ => .error .unknownSubcode8

/-- Category 0xE: the low 8 bits select among 2 operations (30_encoding.md R64, R68). -/
def decodeE (w : Word) : Except DecodeError Instr :=
  match (imm8Of w).toNat with
  | 0x9E => .ok (.skp (regXOf w))
  | 0xA1 => .ok (.sknp (regXOf w))
  | _ => .error .unknownSubcodeE

/-- Category 0xF: the low 8 bits select among 9 operations (30_encoding.md R64, R69). -/
def decodeF (w : Word) : Except DecodeError Instr :=
  match (imm8Of w).toNat with
  | 0x07 => .ok (.ldVxDT (regXOf w))
  | 0x0A => .ok (.ldVxK (regXOf w))
  | 0x15 => .ok (.ldDTVx (regXOf w))
  | 0x18 => .ok (.ldSTVx (regXOf w))
  | 0x1E => .ok (.addI (regXOf w))
  | 0x29 => .ok (.ldF (regXOf w))
  | 0x33 => .ok (.ldB (regXOf w))
  | 0x55 => .ok (.ldMemVx (regXOf w))
  | 0x65 => .ok (.ldVxMem (regXOf w))
  | _ => .error .unknownSubcodeF

/-- Decoding is a total function of the word alone (30_encoding.md R64): the category, W[15:12], selects, and four
categories are sub-dispatched. -/
def decodeWord (w : Word) : Except DecodeError Instr :=
  match (catOf w).toNat with
  | 0x0 => .ok (decode0 w)
  | 0x1 => .ok (.jp (addr12Of w))
  | 0x2 => .ok (.call (addr12Of w))
  | 0x3 => .ok (.seImm (regXOf w) (imm8Of w))
  | 0x4 => .ok (.sneImm (regXOf w) (imm8Of w))
  | 0x5 => .ok (.seReg (regXOf w) (regYOf w) (nibbleOf w))
  | 0x6 => .ok (.ldImm (regXOf w) (imm8Of w))
  | 0x7 => .ok (.addImm (regXOf w) (imm8Of w))
  | 0x8 => decode8 w
  | 0x9 => .ok (.sneReg (regXOf w) (regYOf w) (nibbleOf w))
  | 0xA => .ok (.ldI (addr12Of w))
  | 0xB => .ok (.jpV0 (addr12Of w))
  | 0xC => .ok (.rnd (regXOf w) (imm8Of w))
  | 0xD => .ok (.drw (regXOf w) (regYOf w) (nibbleOf w))
  | 0xE => decodeE w
  | _ => decodeF w

/-- The word of two bytes, the byte at the lower address in bits 15 to 8 (30_encoding.md R60; 20_memory.md R48). -/
def wordOfBytes (hi lo : Byte) : Word := hi ++ lo

/-- The byte of a word that stands at the lower address: W[15:8]. -/
def highByte (w : Word) : Byte := w.extractLsb' 8 8

/-- The byte of a word that stands at the higher address: W[7:0]. -/
def lowByte (w : Word) : Byte := w.extractLsb' 0 8

/-- The decoder on bytes: one length, two bytes, big-endian (30_encoding.md R60); answers the instruction and the
bytes after it. -/
def decodeBytes : List Byte → Except DecodeError (Instr × List Byte)
  | hi :: lo :: rest =>
    match decodeWord (wordOfBytes hi lo) with
    | .ok i => .ok (i, rest)
    | .error e => .error e
  | [] => .error .truncated
  | [_] => .error .truncated

/-- The instruction the decoder reads from a word of `nbits` bits numbered as spec/opcode_table.json numbers them;
every bit above `nbits` is 0. The word's two bytes are laid out high byte first, as the hardware stores them, and
given to `decodeBytes`. -/
def decodeTableWord (nbits w : Nat) : Option Instr :=
  let word : Word := BitVec.ofNat 16 (w % 2 ^ nbits)
  match decodeBytes [highByte word, lowByte word] with
  | .ok (i, _) => some i
  | .error _ => none

/-! ### The encoder -/

/-- The four bits of a register field (30_encoding.md R61). -/
def regBits (x : Reg) : BitVec 4 := BitVec.ofFin x

/-- Format NNN: `cat`(4) `addr12`(12) (30_encoding.md R62). -/
def formatNNN (cat : BitVec 4) (nnn : BitVec 12) : Word := cat ++ nnn

/-- Format XKK: `cat`(4) `regX`(4) `imm8`(8) (30_encoding.md R62). -/
def formatXKK (cat : BitVec 4) (x : Reg) (kk : Byte) : Word := cat ++ regBits x ++ kk

/-- Format XYN: `cat`(4) `regX`(4) `regY`(4) `nibble`(4) (30_encoding.md R62). -/
def formatXYN (cat : BitVec 4) (x y : Reg) (n : BitVec 4) : Word := cat ++ regBits x ++ regBits y ++ n

/-- Format XSS: `cat`(4) `regX`(4) `sub8`(8), the low 8 bits a sub-code (30_encoding.md R62). -/
def formatXSS (cat : BitVec 4) (x : Reg) (sub8 : Byte) : Word := cat ++ regBits x ++ sub8

/-- The word of an instruction, row by row from the opcode map (30_encoding.md R66). -/
def encode : Instr → Word
  | .cls => 0x00E0#16
  | .ret => 0x00EE#16
  | .sys nnn => formatNNN 0x0#4 nnn
  | .jp nnn => formatNNN 0x1#4 nnn
  | .call nnn => formatNNN 0x2#4 nnn
  | .seImm x kk => formatXKK 0x3#4 x kk
  | .sneImm x kk => formatXKK 0x4#4 x kk
  | .seReg x y n => formatXYN 0x5#4 x y n
  | .ldImm x kk => formatXKK 0x6#4 x kk
  | .addImm x kk => formatXKK 0x7#4 x kk
  | .ldReg x y => formatXYN 0x8#4 x y 0x0#4
  | .orReg x y => formatXYN 0x8#4 x y 0x1#4
  | .andReg x y => formatXYN 0x8#4 x y 0x2#4
  | .xorReg x y => formatXYN 0x8#4 x y 0x3#4
  | .addReg x y => formatXYN 0x8#4 x y 0x4#4
  | .subReg x y => formatXYN 0x8#4 x y 0x5#4
  | .shr x y => formatXYN 0x8#4 x y 0x6#4
  | .subnReg x y => formatXYN 0x8#4 x y 0x7#4
  | .shl x y => formatXYN 0x8#4 x y 0xE#4
  | .sneReg x y n => formatXYN 0x9#4 x y n
  | .ldI nnn => formatNNN 0xA#4 nnn
  | .jpV0 nnn => formatNNN 0xB#4 nnn
  | .rnd x kk => formatXKK 0xC#4 x kk
  | .drw x y n => formatXYN 0xD#4 x y n
  | .skp x => formatXSS 0xE#4 x 0x9E#8
  | .sknp x => formatXSS 0xE#4 x 0xA1#8
  | .ldVxDT x => formatXSS 0xF#4 x 0x07#8
  | .ldVxK x => formatXSS 0xF#4 x 0x0A#8
  | .ldDTVx x => formatXSS 0xF#4 x 0x15#8
  | .ldSTVx x => formatXSS 0xF#4 x 0x18#8
  | .addI x => formatXSS 0xF#4 x 0x1E#8
  | .ldF x => formatXSS 0xF#4 x 0x29#8
  | .ldB x => formatXSS 0xF#4 x 0x33#8
  | .ldMemVx x => formatXSS 0xF#4 x 0x55#8
  | .ldVxMem x => formatXSS 0xF#4 x 0x65#8

/-- The two bytes of an instruction as they lie in memory, lower address first (30_encoding.md R60). -/
def encodeBytes (i : Instr) : List Byte := [highByte (encode i), lowByte (encode i)]

end Sys2Proof
end

