-- ==== Sys2Proof/Machine/Memory.lean ====
section
/-! DEFINITION. The memory array as plain data (spec 20_memory.md R40 to R48): cells in ONE canonical form, strictly
rising addresses and no cell equal to what an unlisted address reads as. The checks of an access (R44 to R47) are in
Machine/Ops.lean. -/

namespace Sys2Proof.Machine

/-- MEM_SIZE (00_scope.md R5). -/
def memSize : Nat := 4096

/-- GLYPH_BASE (00_scope.md R5). -/
def glyphBase : Nat := 0x050

/-- GLYPH_END, exclusive (00_scope.md R5). -/
def glyphEnd : Nat := 0x0A0

/-- GLYPH_STRIDE (00_scope.md R5). -/
def glyphStride : Nat := 5

/-- PROG_BASE (00_scope.md R5). -/
def progBase : Nat := 0x200

/-- PROG_CAPACITY (00_scope.md R5; 20_memory.md R43). -/
def progCapacity : Nat := 3584

/-- `GLYPHS`, the 80-byte font of 20_memory.md R42, glyph `d` at `5*d`, top row first. -/
def glyphs : List Byte :=
  [0xF0, 0x90, 0x90, 0x90, 0xF0] ++ [0x20, 0x60, 0x20, 0x20, 0x70] ++
  [0xF0, 0x10, 0xF0, 0x80, 0xF0] ++ [0xF0, 0x10, 0xF0, 0x10, 0xF0] ++
  [0x90, 0x90, 0xF0, 0x10, 0x10] ++ [0xF0, 0x80, 0xF0, 0x10, 0xF0] ++
  [0xF0, 0x80, 0xF0, 0x90, 0xF0] ++ [0xF0, 0x10, 0x20, 0x40, 0x40] ++
  [0xF0, 0x90, 0xF0, 0x90, 0xF0] ++ [0xF0, 0x90, 0xF0, 0x10, 0xF0] ++
  [0xF0, 0x90, 0xF0, 0x90, 0x90] ++ [0xE0, 0x90, 0xE0, 0x90, 0xE0] ++
  [0xF0, 0x80, 0x80, 0x80, 0xF0] ++ [0xE0, 0x90, 0x90, 0x90, 0xE0] ++
  [0xF0, 0x80, 0xF0, 0x80, 0xF0] ++ [0xF0, 0x80, 0xF0, 0x80, 0x80]

/-- Whether an address lies in the glyph table [0x050, 0x0A0) (20_memory.md R41). -/
def inGlyphTable (a : Nat) : Bool := decide (glyphBase ≤ a) && decide (a < glyphEnd)

/-- What an unlisted address reads as: the glyph table's reset contents (20_memory.md R42), and elsewhere 0x00, the
value 10_state.md R29 recommends for `MEM_FILL` (assumption 2). -/
def unlisted (a : Nat) : Byte :=
  if inGlyphTable a then glyphs.getD (a - glyphBase) 0x00 else 0x00

/-- The cells of memory that differ from `unlisted`. -/
abbrev Memory := List Host.Cell

/-- The canonical form: addresses below 4096, strictly rising, and no cell equal to what its address reads as when
unlisted. -/
abbrev Memory.wf (m : Memory) : Prop :=
  m.Pairwise (fun p q => p.1 < q.1) ∧ ∀ p ∈ m, p.1 < memSize ∧ p.2 ≠ unlisted p.1

/-- `MEM[a]`. -/
def Memory.read : Memory → Nat → Byte
  | [], a => unlisted a
  | (b, v) :: m, a => if a = b then v else Memory.read m a

/-- The cells for `MEM[a] = v` alone: none where that is what `a` reads as unlisted. -/
def Memory.cell (a : Nat) (v : Byte) : Memory := if v = unlisted a then [] else [(a, v)]

/-- `MEM[a] <- v`, keeping the canonical form. -/
def Memory.write : Memory → Nat → Byte → Memory
  | [], a, v => Memory.cell a v
  | (b, u) :: m, a, v =>
    if a < b then Memory.cell a v ++ (b, u) :: m
    else if a = b then Memory.cell a v ++ m
    else (b, u) :: Memory.write m a v

/-- Byte stores at ascending addresses `a`, `a+1`, ... (20_memory.md R46). -/
def Memory.writeBytes : Memory → Nat → List Byte → Memory
  | m, _, [] => m
  | m, a, v :: vs => Memory.writeBytes (Memory.write m a v) (a + 1) vs

/-- Byte reads at the `n` ascending addresses `a`, `a+1`, ... (20_memory.md R46). -/
def Memory.readBytes (m : Memory) (a : Nat) : Nat → List Byte
  | 0 => []
  | n + 1 => Memory.read m a :: Memory.readBytes m (a + 1) n

/-- The glyph region holds the glyph table (10_state.md R28). -/
abbrev Memory.glyphsIntact (m : Memory) : Prop :=
  ∀ k < 80, m.read (glyphBase + k) = glyphs.getD k 0x00

end Sys2Proof.Machine
end

