-- ==== Sys2Proof/Config.lean ====
section
/-! DEFINITION. The configuration of CHIP-8 CORE: the parameters of spec 00_scope.md R6 and R7 that are fixed for a
machine, and the one free value. `GLYPHS` is `Machine.glyphs`; the image is an argument of reset. -/

namespace Sys2Proof

/-- GLYPH_WRITE_POLICY, what a store into [0x050, 0x0A0) does (00_scope.md R7; 20_memory.md R47). -/
inductive GlyphWritePolicy where
  /-- the store raises WriteProtect: the value in the spec -/
  | fault
  /-- the store is performed: the other value the spec records -/
  | allow
  deriving DecidableEq, Repr

/-- The configuration. It is plain data and stands in State, where no step changes it (assumption 1). -/
structure Config where
  /-- STEPS_PER_FRAME, instruction steps per frame, an integer ≥ 1 (00_scope.md R6) -/
  stepsPerFrame : Nat
  /-- FRAME_HZ; no rule reads it (00_scope.md R6; 70_reset_and_hazards.md R224). DESIGN CHOICE, safe: a whole number,
  where R6 says only "positive" (assumption 10) -/
  frameHz : Nat
  /-- MEM_FILL, as the cells that differ from 0x00 (00_scope.md R7; 10_state.md R29) -/
  memFill : Machine.Memory
  /-- GLYPH_WRITE_POLICY (00_scope.md R7) -/
  glyphWritePolicy : GlyphWritePolicy
  /-- LDST_I_INC: whether the bulk transfers add x+1 to `I` (00_scope.md R7; 44_index_memory.md R140) -/
  ldstIInc : Bool
  deriving DecidableEq, Repr

/-- The spec's defaults: 10 steps per frame, 60 frames per second, fill 0x00, `fault`, and 0 (R6, R7). -/
def Config.default : Config :=
  { stepsPerFrame := 10, frameHz := 60, memFill := [], glyphWritePolicy := .fault, ldstIInc := false }

/-- The legal ranges of R6 (FRAME_HZ a whole number by assumption 10), and a fill that is a memory in canonical form
and lists no glyph address (the glyph table is no part of `MEM_FILL`, R7). -/
abbrev Config.wf (c : Config) : Prop :=
  1 ≤ c.stepsPerFrame ∧ 1 ≤ c.frameHz ∧ c.memFill.wf ∧ ∀ p ∈ c.memFill, Machine.inGlyphTable p.1 = false

/-- FREE VALUE: the random byte of a slot for which the state lists no input, by the number of inputs taken before it
(60_exceptions.md R194: a fresh free input, under no law; assumption 4). -/
opaque Config.freeRandom : Nat → Byte

end Sys2Proof
end

