-- ==== Sys2Proof/Machine/State.lean ====
section
/-! DEFINITION. The state of CHIP-8 CORE (spec 10_state.md): the tuple
`(V, I, PC, SP, STACK, DT, ST, FB, MEM, RUN, FAULT, SLOT)`, and beside it three fields of the model's own that carry
what the spec gives the step relation as arguments (configuration and environment, assumptions 1, 3 and 4). -/

namespace Sys2Proof.Machine

/-- Why a step of the MODEL stops. No fault of the hardware is here: the spec describes what raising one does
(60_exceptions.md R175), so it is a next state with `run = halted`. -/
inductive Fault where
  /-- Raised by `step` when STEPS_PER_FRAME is 0, which 00_scope.md R6 excludes ("integer ≥ 1"). Safe: the spec has
  no such machine. -/
  | noSlotInFrame
  deriving DecidableEq, Repr

/-- Why the model gives an instruction no meaning. -/
inductive Refusal where
  /-- Raised by a refused arm of `exec`: the instruction has no meaning yet. Safe. -/
  | notModelled (mnemonic : String)
  deriving DecidableEq, Repr

/-- `RUN` (10_state.md R23). -/
inductive RunState where
  /-- the engine fetches and executes -/
  | running
  /-- a fault has been raised -/
  | halted
  /-- an external stop request was honoured between two steps -/
  | stopped
  deriving DecidableEq, Repr

/-- The causes of 60_exceptions.md R171. -/
inductive FaultCause where
  | loadFault
  | decodeFault
  | pcBounds
  | addrBounds
  | stackOverflow
  | stackUnderflow
  | writeProtect
  deriving DecidableEq, Repr

/-- The numeric codes of 60_exceptions.md R171. -/
def FaultCause.code : FaultCause → Nat
  | .loadFault => 1
  | .decodeFault => 2
  | .pcBounds => 3
  | .addrBounds => 4
  | .stackOverflow => 5
  | .stackUnderflow => 6
  | .writeProtect => 7

/-- The fault record (10_state.md R24). -/
structure FaultRecord where
  cause : FaultCause
  /-- the address of the instruction that faulted -/
  pc : Word
  /-- the instruction word, or not valid -/
  instr : Option Word
  /-- the offending address, `PC`, depth, word or image length, or none -/
  info : Option Nat
  deriving DecidableEq, Repr

/-- The framebuffer, `FB[r][c]` with `true` for on (10_state.md R21). -/
abbrev Framebuffer := Vector (Vector Bool 64) 32

/-- A logical key, 0 to 15 (60_exceptions.md R192). -/
abbrev Key := Fin 16

/-- `env`, the environment's sample for one slot (60_exceptions.md R190, R192, R194, R196). -/
structure Env where
  /-- the held keys -/
  keys : List Key
  /-- which held key the "which key" query reports when it is one of them -/
  pick : Key
  /-- the random byte -/
  rnd : Byte
  /-- the stop request -/
  stop : Bool
  deriving DecidableEq, Repr

/-- One input of the core, in the order in which they come. -/
inductive Input where
  /-- the environment of the next slot -/
  | slot (env : Env)
  /-- the host's reset event with the program image, or with no image (70_reset_and_hazards.md R210, R211) -/
  | reset (image : Option (List Byte))
  deriving DecidableEq, Repr

/-- The complete state (10_state.md). -/
structure State where
  /-- `V[0..15]` (R10) -/
  v : Vector Byte 16
  /-- `I` (R15) -/
  i : Word
  /-- `PC` (R16) -/
  pc : Word
  /-- `SP`, the number of return addresses on the stack (R19) -/
  sp : Fin 17
  /-- `STACK[0..15]` (R18) -/
  stack : Vector Word 16
  /-- `DT` (R20) -/
  dt : Byte
  /-- `ST` (R20) -/
  st : Byte
  /-- `FB` (R21) -/
  fb : Framebuffer
  /-- `MEM` (R22) -/
  mem : Memory
  /-- `RUN` (R23) -/
  run : RunState
  /-- `FAULT` (R24) -/
  fault : Option FaultRecord
  /-- `SLOT` (R25) -/
  slot : Nat
  /-- the model's own: the configuration -/
  cfg : Config
  /-- the model's own: the inputs still to come, oldest first -/
  inputs : List Input
  /-- the model's own: how many inputs have been taken -/
  taken : Nat
  deriving DecidableEq, Repr

/-- The state right after reset with an empty image under the default configuration (10_state.md R29;
70_reset_and_hazards.md R210, R212): memory lists nothing, and no input is listed. -/
def State.reset : State :=
  { v := Vector.replicate 16 0x00
    i := 0x0000
    pc := 0x0200
    sp := 0
    stack := Vector.replicate 16 0x0000
    dt := 0x00
    st := 0x00
    fb := Vector.replicate 32 (Vector.replicate 64 false)
    mem := []
    run := .running
    fault := none
    slot := 0
    cfg := Config.default
    inputs := []
    taken := 0 }

end Sys2Proof.Machine
end

