-- ==== Sys2Proof/Machine/Ops.lean ====
section
/-! DEFINITION. The named operations over registers, program counter, call stack, memory and framebuffer, and fault
entry, which every meaning calls (spec 10_state.md, 20_memory.md, 40_step_cycle.md, 60_exceptions.md R175). -/

namespace Sys2Proof.Machine

/-! ### General registers (10_state.md R10) -/

/-- `V[x]`. No register is hard-wired (R10). -/
def State.reg (s : State) (x : Reg) : Byte := s.v[x]

/-- `V[x] <- b`. -/
def State.setReg (s : State) (x : Reg) (b : Byte) : State := { s with v := s.v.set x b }

/-- `VF`, register 15, the flag register (10_state.md R13). -/
def flagReg : Reg := 15

/-- `I <- a`. -/
def State.setI (s : State) (a : Word) : State := { s with i := a }

/-! ### The next program counter (40_step_cycle.md R84) -/

/-- `pc <- t`. -/
def State.goto (s : State) (t : Word) : State := { s with pc := t }

/-- `pc <- pc + 2`. -/
def State.advance (s : State) : State := s.goto (s.pc + 2)

/-- `pc <- pc + 4` if the condition holds, else `pc <- pc + 2`. -/
def State.skipIf (s : State) (c : Bool) : State := s.goto (if c then s.pc + 4 else s.pc + 2)

/-! ### Fault entry (60_exceptions.md R175)

There is no return from a fault to stand beside it: no trap return instruction exists, and only a reset leaves the
halted state (R179; `State.takeReset` in Machine/Reset.lean). -/

/-- `raise F(info)`: the fault is recorded with the address of the instruction, `PC`, and `RUN` becomes Halted.
Nothing else changes. `instr` is the instruction word, if one was fetched. -/
def State.raise (s : State) (cause : FaultCause) (instr : Option Word) (info : Option Nat) : State :=
  { s with run := .halted, fault := some { cause := cause, pc := s.pc, instr := instr, info := info } }

/-! ### Call stack (10_state.md R18, R19) -/

/-- `STACK[SP] <- a; SP <- SP + 1`, or `none` when the stack already holds 16 return addresses (41_flow.md R92). -/
def State.push (s : State) (a : Word) : Option State :=
  if h : s.sp.val < 16 then
    some { s with stack := s.stack.set s.sp.val a h, sp := ⟨s.sp.val + 1, Nat.succ_lt_succ h⟩ }
  else none

/-- `SP <- SP - 1`, and the entry `STACK[SP]` at the new `SP`, which keeps its value; or `none` when the stack is
empty (41_flow.md R93). -/
def State.pop (s : State) : Option (Word × State) :=
  if h : 0 < s.sp.val then
    some (s.stack[s.sp.val - 1]'(by omega), { s with sp := ⟨s.sp.val - 1, by omega⟩ })
  else none

/-! ### Memory access checks (20_memory.md R44 to R47) -/

/-- The fault a read of address `a` raises (20_memory.md R44). -/
def readFault (a : Nat) : Option FaultCause :=
  if memSize ≤ a then some .addrBounds else none

/-- The fault a store to address `a` raises (20_memory.md R45; the second clause dropped under `allow`, R47). -/
def writeFault (policy : GlyphWritePolicy) (a : Nat) : Option FaultCause :=
  if memSize ≤ a then some .addrBounds
  else if policy = .fault ∧ inGlyphTable a = true then some .writeProtect
  else none

/-- The checks of the `n` ascending addresses `a`, `a+1`, ..., made before anything is written: the first failure, with
its address (20_memory.md R46; 44_index_memory.md R135). -/
def firstFault (check : Nat → Option FaultCause) (a : Nat) : Nat → Option (FaultCause × Nat)
  | 0 => none
  | n + 1 =>
    match check a with
    | some c => some (c, a)
    | none => firstFault check (a + 1) n

/-- A load's or draw's checks for its `n` bytes from `I` (20_memory.md R44, R46). -/
def State.loadFault (s : State) (n : Nat) : Option (FaultCause × Nat) :=
  firstFault readFault s.i.toNat n

/-- A store's checks for its `n` bytes from `I` (20_memory.md R45, R46). -/
def State.storeFault (s : State) (n : Nat) : Option (FaultCause × Nat) :=
  firstFault (writeFault s.cfg.glyphWritePolicy) s.i.toNat n

/-- The stores of checked bytes at `I`, `I+1`, .... -/
def State.storeBytes (s : State) (bytes : List Byte) : State :=
  { s with mem := s.mem.writeBytes s.i.toNat bytes }

/-! ### Framebuffer (10_state.md R21) -/

/-- All pixels off. -/
def Framebuffer.blank : Framebuffer := Vector.replicate 32 (Vector.replicate 64 false)

/-- `FB[r][c]`. -/
def Framebuffer.px (f : Framebuffer) (r : Fin 32) (c : Fin 64) : Bool := f[r][c]

/-- `FB[r][c] <- FB[r][c] xor 1`. -/
def Framebuffer.flip (f : Framebuffer) (r : Fin 32) (c : Fin 64) : Framebuffer :=
  f.set r (f[r].set c (!f[r][c]))

/-- `FB <- f`. -/
def State.setFb (s : State) (f : Framebuffer) : State := { s with fb := f }

/-! ### Timers (10_state.md R20) -/

/-- `DT <- b`. -/
def State.setDt (s : State) (b : Byte) : State := { s with dt := b }

/-- `ST <- b`. -/
def State.setSt (s : State) (b : Byte) : State := { s with st := b }

/-! ### Fetch (40_step_cycle.md R81) -/

/-- `MemFetch(PC)`: both bytes must lie in [0, 4096); no alignment and no lower bound; `none` is `PcBounds`. -/
def State.fetch (s : State) : Option Word :=
  if s.pc.toNat ≤ 0x0FFE then
    some (wordOfBytes (s.mem.read s.pc.toNat) (s.mem.read (s.pc.toNat + 1)))
  else none

end Sys2Proof.Machine
end

