-- ==== Sys2Proof/Machine/Flags.lean ====
section
/-! DEFINITION. The results and flags of the 8-bit ALU (spec 43_load_alu.md R112 to R121). Flags are computed from
the operands read before any write, never from the result. -/

namespace Sys2Proof.Machine

/-- A flag as the byte `V[15]` holds: 0x00 or 0x01 (10_state.md R13). -/
def flagByte (f : Bool) : Byte := if f then 0x01 else 0x00

/-- `(a + b) mod 256` (43_load_alu.md R117). -/
def addResult (a b : Byte) : Byte := BitVec.ofNat 8 ((a.toNat + b.toNat) % 256)

/-- Carry out: 1 iff `a + b > 255` (43_load_alu.md R117). -/
def addCarry (a b : Byte) : Bool := decide (a.toNat + b.toNat > 255)

/-- `(a - b) mod 256`: `a - b` if `a ≥ b`, else `a - b + 256` (43_load_alu.md R118, R120). -/
def subResult (a b : Byte) : Byte := BitVec.ofNat 8 ((a.toNat + 256 - b.toNat) % 256)

/-- No borrow: 1 iff `a ≥ b` (43_load_alu.md R118, R120). -/
def subNoBorrow (a b : Byte) : Bool := decide (a.toNat ≥ b.toNat)

/-- `a[7:1]` zero-extended to 8 bits (43_load_alu.md R119). -/
def shrResult (a : Byte) : Byte := (a.extractLsb' 1 7).setWidth 8

/-- `a[0]`, the pre-shift bottom bit (43_load_alu.md R119). -/
def shrOut (a : Byte) : Bool := a.getLsbD 0

/-- `a[6:0] : 0` (43_load_alu.md R121). -/
def shlResult (a : Byte) : Byte := BitVec.ofNat 8 (a.toNat * 2 % 256)

/-- `a[7]`, the pre-shift top bit (43_load_alu.md R121). -/
def shlOut (a : Byte) : Bool := a.getLsbD 7

/-- The flag discipline: `V[x] <- r`, then `V[15] <- f`, written last, so the flag wins when `x` = 15
(43_load_alu.md R112). -/
def State.setFlagged (s : State) (x : Reg) (r : Byte) (f : Bool) : State :=
  (s.setReg x r).setReg flagReg (flagByte f)

end Sys2Proof.Machine
end

