-- ==== Sys2Proof/Machine/Operands.lean ====
section
/-! DEFINITION. The operand forms of CHIP-8 CORE: register and immediate operands (spec 30_encoding.md R63), the one
addressing mode `I + k` (44_index_memory.md R130), the register range of the bulk transfers, and the environment's
answers, keys and random byte (60_exceptions.md R192, R194). -/

namespace Sys2Proof.Machine

/-- An 8-bit register or immediate widened to 16 bits, or `addr12` to 16 bits, with zeros (30_encoding.md R63). -/
def zext {n : Nat} (b : BitVec n) : Word := zext16 b

/-- `ea = I + k`, computed in unbounded arithmetic (44_index_memory.md R130). -/
def State.ea (s : State) (k : Nat) : Nat := s.i.toNat + k

/-- `V[0]` to `V[x]`, inclusive, in order: the bytes of the bulk store (44_index_memory.md R138). -/
def State.regsUpTo (s : State) (x : Reg) : List Byte := s.v.toList.take (x.val + 1)

/-- `for k in 0 .. x: V[k] <- MEM[I + k]` (44_index_memory.md R139). -/
def State.loadRegsUpTo (s : State) (x : Reg) : State :=
  { s with v := Vector.ofFn fun k => if k ≤ x then s.mem.read (s.ea k.val) else s.reg k }

/-- `I` after a bulk transfer of `V[0]` to `V[x]`: unchanged, or `(I + x + 1) mod 65536` with LDST_I_INC = 1
(44_index_memory.md R140). -/
def State.incIAfterBulk (s : State) (x : Reg) : State :=
  { s with i := if s.cfg.ldstIInc then s.i + BitVec.ofNat 16 (x.val + 1) else s.i }

/-- The environment of a slot for which no input is listed: no key held, no stop request, and a free random byte
(assumptions 3 and 4). -/
def Env.unlisted (taken : Nat) : Env :=
  { keys := [], pick := 0, rnd := Config.freeRandom taken, stop := false }

/-- `env`, the sample of this step (40_step_cycle.md R80; 60_exceptions.md R190). -/
def State.env (s : State) : Env :=
  match s.inputs with
  | .slot e :: _ => e
  | .reset _ :: _ => Env.unlisted s.taken
  | [] => Env.unlisted s.taken

/-- `KeyHeld(k) = (k ≤ 15) and (k ∈ env.keys)`, `k` 8 bits (60_exceptions.md R192). -/
def Env.keyHeld (e : Env) (k : Byte) : Bool := e.keys.any fun j => j.val == k.toNat

/-- `AnyKey()`: none if no key is held, else a held key: `env.pick` where it is one, as the spec has it, and otherwise
the first listed (60_exceptions.md R192; assumption 6). -/
def Env.anyKey (e : Env) : Option Key := if e.pick ∈ e.keys then some e.pick else e.keys.head?

/-- `Rnd()`: the byte drawn by this execution (60_exceptions.md R194). -/
def State.rndByte (s : State) : Byte := s.env.rnd

/-- A logical key code as a register value, `zext_8(k)` (45_timer_key.md R151). -/
def keyByte (k : Key) : Byte := BitVec.ofNat 8 k.val

end Sys2Proof.Machine
end

