-- ==== Sys2Proof/Machine/Display.lean ====
section
/-! DEFINITION. Display operations: clear and draw (spec 46_display.md R161, R162), the draw as the rule's own
sequence of single-pixel steps. -/

namespace Sys2Proof.Machine

/-- CLS; `V[15]` is not written (46_display.md R161). -/
def execCls (s : State) : Host.Outcome State Fault Refusal := .next (s.setFb Framebuffer.blank).advance

/-- A draw in progress: the framebuffer and `coll` (46_display.md R162). -/
abbrev Drawing := Framebuffer × Bool

/-- The body of the inner loop for a sprite bit of 1: `coll` is set if the pixel was on, and the pixel is flipped. -/
def drawPixel (r : Fin 32) (c : Fin 64) (d : Drawing) : Drawing := (d.1.flip r c, d.2 || d.1.px r c)

/-- The row of a sprite row at `y0 + row`, modulo 32 (46_display.md R162). -/
def pixelRow (y0 row : Nat) : Fin 32 := ⟨(y0 + row) % 32, Nat.mod_lt _ (by decide)⟩

/-- The column of a sprite column at `x0 + col`, modulo 64 (46_display.md R162). -/
def pixelCol (x0 col : Nat) : Fin 64 := ⟨(x0 + col) % 64, Nat.mod_lt _ (by decide)⟩

/-- The bit of a sprite byte at a column: bit 7 is the leftmost pixel (46_display.md R162). -/
def spriteBit (b : Byte) (col : Nat) : Bool := b.getLsbD (7 - col)

/-- One sprite row: its columns in the list, in order. -/
def drawCols (x0 : Nat) (r : Fin 32) (b : Byte) : List Nat → Drawing → Drawing
  | [], d => d
  | col :: cols, d =>
    drawCols x0 r b cols (if spriteBit b col then drawPixel r (pixelCol x0 col) d else d)

/-- The sprite's rows from `row` on, one byte each. -/
def drawRows (x0 y0 : Nat) : Nat → List Byte → Drawing → Drawing
  | _, [], d => d
  | row, b :: bs, d =>
    drawRows x0 y0 (row + 1) bs (drawCols x0 (pixelRow y0 row) b [0, 1, 2, 3, 4, 5, 6, 7] d)

/-- The whole sprite at (x0, y0) over a framebuffer, with the collision flag of the whole draw. -/
def drawSprite (x0 y0 : Nat) (sprite : List Byte) (f : Framebuffer) : Drawing :=
  drawRows x0 y0 0 sprite (f, false)

/-- DRW Vx, Vy, n: operands first, then the checks, then the pixels, and the flag last (46_display.md R162). -/
def execDrw (x y : Reg) (n : BitVec 4) (s : State) : Host.Outcome State Fault Refusal :=
  match s.loadFault n.toNat with
  | some (c, a) => .next (s.raise c (some (encode (.drw x y n))) (some a))
  | none =>
    let d := drawSprite (s.reg x).toNat (s.reg y).toNat (s.mem.readBytes s.i.toNat n.toNat) s.fb
    .next ((s.setFb d.1).setReg flagReg (flagByte d.2)).advance

end Sys2Proof.Machine
end

