-- ==== Sys2Proof/Machine/Flow.lean ====
section
/-! DEFINITION. Control transfer: SYS, RET, JP, CALL, JP V0 (spec 41_flow.md R90 to R94). A target is checked at the
next fetch, never here (40_step_cycle.md R84). -/

namespace Sys2Proof.Machine

/-- SYS nnn: inert (41_flow.md R90). -/
def execSys (_nnn : BitVec 12) (s : State) : Host.Outcome State Fault Refusal := .next s.advance

/-- JP nnn (41_flow.md R91). -/
def execJp (nnn : BitVec 12) (s : State) : Host.Outcome State Fault Refusal := .next (s.goto (zext nnn))

/-- CALL nnn: pushes `pc + 2`; StackOverflow with the depth when the stack is full (41_flow.md R92). -/
def execCall (nnn : BitVec 12) (s : State) : Host.Outcome State Fault Refusal :=
  match s.push (s.pc + 2) with
  | some t => .next (t.goto (zext nnn))
  | none => .next (s.raise .stackOverflow (some (encode (.call nnn))) (some s.sp.val))

/-- RET: pops the return address; StackUnderflow with the depth when the stack is empty (41_flow.md R93). -/
def execRet (s : State) : Host.Outcome State Fault Refusal :=
  match s.pop with
  | some (a, t) => .next (t.goto a)
  | none => .next (s.raise .stackUnderflow (some (encode .ret)) (some s.sp.val))

/-- JP V0, nnn: the sum is not reduced modulo 4096 (41_flow.md R94). -/
def execJpV0 (nnn : BitVec 12) (s : State) : Host.Outcome State Fault Refusal :=
  .next (s.goto (zext nnn + zext (s.reg 0)))

end Sys2Proof.Machine
end

