-- ==== Sys2Proof/Machine/IndexMemory.lean ====
section
/-! DEFINITION. Index register and memory operations (spec 44_index_memory.md R130 to R140). All checks of a store or
load come before its first write (20_memory.md R46). -/

namespace Sys2Proof.Machine

/-- LD I, nnn (44_index_memory.md R131). -/
def execLdI (nnn : BitVec 12) (s : State) : Host.Outcome State Fault Refusal :=
  .next (s.setI (zext nnn)).advance

/-- ADD I, Vx: modulo 65536, no flag (44_index_memory.md R132). -/
def execAddI (x : Reg) (s : State) : Host.Outcome State Fault Refusal :=
  .next (s.setI (s.i + zext (s.reg x))).advance

/-- The glyph address of a register value, used whole: `0x0050 + 5 * v` (44_index_memory.md R134). -/
def glyphAddress (v : Byte) : Word := BitVec.ofNat 16 (glyphBase + glyphStride * v.toNat)

/-- LD F, Vx (44_index_memory.md R134). -/
def execLdF (x : Reg) (s : State) : Host.Outcome State Fault Refusal :=
  .next (s.setI (glyphAddress (s.reg x))).advance

/-- The three decimal digits of a byte, hundreds first (44_index_memory.md R136). -/
def bcdDigits (v : Byte) : List Byte :=
  [BitVec.ofNat 8 (v.toNat / 100), BitVec.ofNat 8 (v.toNat / 10 % 10), BitVec.ofNat 8 (v.toNat % 10)]

/-- LD B, Vx (44_index_memory.md R136). -/
def execLdB (x : Reg) (s : State) : Host.Outcome State Fault Refusal :=
  match s.storeFault 3 with
  | some (c, a) => .next (s.raise c (some (encode (.ldB x))) (some a))
  | none => .next (s.storeBytes (bcdDigits (s.reg x))).advance

/-- LD [I], Vx (44_index_memory.md R138, R140). -/
def execLdMemVx (x : Reg) (s : State) : Host.Outcome State Fault Refusal :=
  match s.storeFault (x.val + 1) with
  | some (c, a) => .next (s.raise c (some (encode (.ldMemVx x))) (some a))
  | none => .next ((s.storeBytes (s.regsUpTo x)).incIAfterBulk x).advance

/-- LD Vx, [I] (44_index_memory.md R139, R140). -/
def execLdVxMem (x : Reg) (s : State) : Host.Outcome State Fault Refusal :=
  match s.loadFault (x.val + 1) with
  | some (c, a) => .next (s.raise c (some (encode (.ldVxMem x))) (some a))
  | none => .next ((s.loadRegsUpTo x).incIAfterBulk x).advance

end Sys2Proof.Machine
end

