-- ==== Sys2Proof/Machine/LoadAlu.lean ====
section
/-! DEFINITION. Register load, 8-bit ALU and random (spec 43_load_alu.md R110 to R122). None raises a fault, and all
advance by 2. -/

namespace Sys2Proof.Machine

/-- LD Vx, kk (43_load_alu.md R110). -/
def execLdImm (x : Reg) (kk : Byte) (s : State) : Host.Outcome State Fault Refusal :=
  .next (s.setReg x kk).advance

/-- ADD Vx, kk: no flag, even on overflow (43_load_alu.md R111). -/
def execAddImm (x : Reg) (kk : Byte) (s : State) : Host.Outcome State Fault Refusal :=
  .next (s.setReg x (addResult (s.reg x) kk)).advance

/-- LD Vx, Vy (43_load_alu.md R113). -/
def execLdReg (x y : Reg) (s : State) : Host.Outcome State Fault Refusal :=
  .next (s.setReg x (s.reg y)).advance

/-- OR Vx, Vy; `V[15]` untouched (43_load_alu.md R114). -/
def execOrReg (x y : Reg) (s : State) : Host.Outcome State Fault Refusal :=
  .next (s.setReg x (s.reg x ||| s.reg y)).advance

/-- AND Vx, Vy; `V[15]` untouched (43_load_alu.md R115). -/
def execAndReg (x y : Reg) (s : State) : Host.Outcome State Fault Refusal :=
  .next (s.setReg x (s.reg x &&& s.reg y)).advance

/-- XOR Vx, Vy; `V[15]` untouched (43_load_alu.md R116). -/
def execXorReg (x y : Reg) (s : State) : Host.Outcome State Fault Refusal :=
  .next (s.setReg x (s.reg x ^^^ s.reg y)).advance

/-- ADD Vx, Vy: flag = carry out (43_load_alu.md R117). -/
def execAddReg (x y : Reg) (s : State) : Host.Outcome State Fault Refusal :=
  .next (s.setFlagged x (addResult (s.reg x) (s.reg y)) (addCarry (s.reg x) (s.reg y))).advance

/-- SUB Vx, Vy: `V[x] - V[y]`, flag = no borrow (43_load_alu.md R118). -/
def execSubReg (x y : Reg) (s : State) : Host.Outcome State Fault Refusal :=
  .next (s.setFlagged x (subResult (s.reg x) (s.reg y)) (subNoBorrow (s.reg x) (s.reg y))).advance

/-- SHR Vx: flag = the bottom bit; `regY` is ignored (43_load_alu.md R119). -/
def execShr (x _y : Reg) (s : State) : Host.Outcome State Fault Refusal :=
  .next (s.setFlagged x (shrResult (s.reg x)) (shrOut (s.reg x))).advance

/-- SUBN Vx, Vy: `V[y] - V[x]` into `V[x]`, flag = no borrow (43_load_alu.md R120). -/
def execSubnReg (x y : Reg) (s : State) : Host.Outcome State Fault Refusal :=
  .next (s.setFlagged x (subResult (s.reg y) (s.reg x)) (subNoBorrow (s.reg y) (s.reg x))).advance

/-- SHL Vx: flag = the top bit; `regY` is ignored (43_load_alu.md R121). -/
def execShl (x _y : Reg) (s : State) : Host.Outcome State Fault Refusal :=
  .next (s.setFlagged x (shlResult (s.reg x)) (shlOut (s.reg x))).advance

/-- RND Vx, kk: the random byte of this step, masked (43_load_alu.md R122). -/
def execRnd (x : Reg) (kk : Byte) (s : State) : Host.Outcome State Fault Refusal :=
  .next (s.setReg x (s.rndByte &&& kk)).advance

end Sys2Proof.Machine
end

