-- ==== Sys2Proof/Machine/TimerKey.lean ====
section
/-! DEFINITION. Timer and key operations (spec 45_timer_key.md R146 to R151). The key queries are answered from the
sample of this step (60_exceptions.md R192). -/

namespace Sys2Proof.Machine

/-- LD Vx, DT (45_timer_key.md R146). -/
def execLdVxDT (x : Reg) (s : State) : Host.Outcome State Fault Refusal :=
  .next (s.setReg x s.dt).advance

/-- LD DT, Vx (45_timer_key.md R147). -/
def execLdDTVx (x : Reg) (s : State) : Host.Outcome State Fault Refusal :=
  .next (s.setDt (s.reg x)).advance

/-- LD ST, Vx (45_timer_key.md R148). -/
def execLdSTVx (x : Reg) (s : State) : Host.Outcome State Fault Refusal :=
  .next (s.setSt (s.reg x)).advance

/-- SKP Vx (45_timer_key.md R149). -/
def execSkp (x : Reg) (s : State) : Host.Outcome State Fault Refusal :=
  .next (s.skipIf (s.env.keyHeld (s.reg x)))

/-- SKNP Vx (45_timer_key.md R150). -/
def execSknp (x : Reg) (s : State) : Host.Outcome State Fault Refusal :=
  .next (s.skipIf (!s.env.keyHeld (s.reg x)))

/-- LD Vx, K: with a key held, its code is loaded; with none, no state changes (outcome Yield) and the frame engine
ends the frame (45_timer_key.md R151; `yields`). -/
def execLdVxK (x : Reg) (s : State) : Host.Outcome State Fault Refusal :=
  match s.env.anyKey with
  | some k => .next (s.setReg x (keyByte k)).advance
  | none => .next s

/-- Outcome Yield of a step: only the key wait with no key held (40_step_cycle.md R80). -/
def yields (i : Instr) (s : State) : Bool :=
  match i with
  | .ldVxK _ => s.env.anyKey.isNone
  | _ => false

end Sys2Proof.Machine
end

