-- ==== Sys2Proof/Machine/Reset.lean ====
section
/-! DEFINITION. Reset with a program image (spec 70_reset_and_hazards.md R210 to R213), and the placing of one word
where the next step fetches it. -/

namespace Sys2Proof.Machine

/-- MEM after reset before any image byte: `MEM_FILL` outside the glyph table, and the glyph table, which is what its
addresses read as unlisted (70_reset_and_hazards.md R210; 20_memory.md R42). -/
def resetMemory (cfg : Config) : Memory := cfg.memFill.filter fun p => !inGlyphTable p.1

/-- Every element at its reset value, no image loaded (10_state.md R29). -/
def resetBase (cfg : Config) : State := { State.reset with cfg := cfg, mem := resetMemory cfg }

/-- `Reset(IMAGE)` (70_reset_and_hazards.md R210): an absent or over-long image is a load fault, the core halted with
no image byte loaded (R213; 60_exceptions.md R174); otherwise `MEM[0x200 + i] <- IMAGE[i]`. -/
def resetWith (cfg : Config) (image : Option (List Byte)) : State :=
  match image with
  | none => (resetBase cfg).raise .loadFault none none
  | some bytes =>
    if bytes.length > progCapacity then (resetBase cfg).raise .loadFault none (some bytes.length)
    else { resetBase cfg with mem := (resetMemory cfg).writeBytes progBase bytes }

/-- One input is taken from the queue. -/
def State.takeInput (s : State) : State := { s with inputs := s.inputs.tail, taken := s.taken + 1 }

/-- The reset event: everything is discarded, in any run state (70_reset_and_hazards.md R211); the configuration and
the inputs still to come are no part of what is discarded. -/
def State.takeReset (s : State) (image : Option (List Byte)) : State :=
  { resetWith s.cfg image with inputs := s.inputs.tail, taken := s.taken + 1 }

/-- Whether an input keeps the next slot from running an instruction: a reset event or a stop request. -/
def Input.keepsFromRunning : Input → Bool
  | .slot e => e.stop
  | .reset _ => true

/-- The state with a word stored where the next step fetches (assumption 8): at `PC`, or at 0x200 if `PC` is out of
the fetch range. A core that is not running, a reset or stop that comes first, or a configuration without slots would
keep the word from being fetched, so these are set aside. Nothing else changes. -/
def State.placeWord (s : State) (w : Word) : State :=
  let a : Word := if s.pc.toNat ≤ 0x0FFE then s.pc else 0x0200
  { s with
    pc := a
    mem := s.mem.writeBytes a.toNat [highByte w, lowByte w]
    run := .running
    fault := none
    inputs := s.inputs.dropWhile Input.keepsFromRunning
    cfg := if s.cfg.stepsPerFrame = 0 then { s.cfg with stepsPerFrame := 10 } else s.cfg }

end Sys2Proof.Machine
end

