-- ==== Sys2Proof/Machine/Engine.lean ====
section
/-! DEFINITION. The step, the frame engine and the timers, and the outputs (spec 40_step_cycle.md R80 to R84;
60_exceptions.md R184 to R187, R193, R195, R196, R198). -/

namespace Sys2Proof.Machine

/-- `if t > 0 then t - 1`: a timer at 0 stays at 0 (60_exceptions.md R186). -/
def tickTimer (t : Byte) : Byte := if t = 0 then 0 else t - 1

/-- `EndOfFrame()`: both timers tick and the frame's slot count starts again (60_exceptions.md R184, R186). The render
is an output (`rendered`). -/
def State.endOfFrame (s : State) : State := { s with slot := 0, dt := tickTimer s.dt, st := tickTimer s.st }

/-- Whether the slot whose step left `t` ends the frame: the step yielded, or it completed and the slots of the frame
are used up; a step that faulted ends no frame (60_exceptions.md R184). -/
def endsFrame (yielded : Bool) (t : State) : Bool :=
  t.run == .running && (yielded || t.slot + 1 == t.cfg.stepsPerFrame)

/-- The slot accounting after a step that left `t` (60_exceptions.md R184, R185). -/
def endSlot (yielded : Bool) (t : State) : State :=
  if endsFrame yielded t then t.endOfFrame
  else if t.run = .running then { t with slot := t.slot + 1 }
  else t

/-- `Step()`: fetch, decode, execute (40_step_cycle.md R80 to R82). -/
def stepOnce (s : State) : Host.Outcome State Fault Refusal :=
  match s.fetch with
  | none => .next (s.raise .pcBounds none (some s.pc.toNat))
  | some w =>
    match decodeWord w with
    | .error _ => .next (s.raise .decodeFault (some w) (some w.toNat))
    | .ok i => exec i s

/-- Whether the step of `s` has outcome Yield (40_step_cycle.md R80). -/
def yieldsNow (s : State) : Bool :=
  match s.fetch with
  | none => false
  | some w =>
    match decodeWord w with
    | .error _ => false
    | .ok i => yields i s

/-- `Slot(env)`, enabled only when `RUN = Running` (60_exceptions.md R184, R196). -/
def slot (s : State) : Host.Outcome State Fault Refusal :=
  if s.env.stop then .next { s.takeInput with run := .stopped }
  else if s.cfg.stepsPerFrame = 0 then .fault .noSlotInFrame
  else
    match stepOnce s with
    | .next t => .next (endSlot (yieldsNow s) t).takeInput
    | .fault f => .fault f
    | .refused r => .refused r

/-- One transition of the core: a reset event in any run state (70_reset_and_hazards.md R211), a slot when running,
and nothing but the passing of the input when halted or stopped (60_exceptions.md R176). -/
def transition (s : State) : Host.Outcome State Fault Refusal :=
  match s.inputs with
  | .reset image :: _ => .next (s.takeReset image)
  | _ =>
    match s.run with
    | .running => slot s
    | .halted => .next s.takeInput
    | .stopped => .next s.takeInput

/-! ### Outputs, functions of the state (60_exceptions.md R190) -/

/-- Whether the transition of `s` is a slot that takes a step. -/
def takesStep (s : State) : Bool :=
  (match s.inputs with
    | .reset _ :: _ => false
    | _ => true) && s.run == .running && !s.env.stop && s.cfg.stepsPerFrame != 0

/-- `Render(FB)`: the framebuffer the transition of `s` presents, if it ends a frame (60_exceptions.md R184, R193). -/
def rendered (s : State) : Option Framebuffer :=
  if takesStep s then
    match stepOnce s with
    | .next t => if endsFrame (yieldsNow s) t then some t.fb else none
    | .fault _ => none
    | .refused _ => none
  else none

/-- `sound_active = (ST ≠ 0)` (60_exceptions.md R195). -/
def State.soundActive (s : State) : Bool := s.st != 0

/-- What the host observes: `RUN` and, when halted, `FAULT` (60_exceptions.md R198). -/
def State.status (s : State) : RunState × Option FaultRecord :=
  (s.run, if s.run = .halted then s.fault else none)

end Sys2Proof.Machine
end

