-- ==== Sys2Proof/Machine/Step.lean ====
section
/-! DEFINITION. The machine's one step, a transition of the frame engine (spec 60_exceptions.md R184), and the placing
of a table word. -/

namespace Sys2Proof.Machine

/-- One transition of the core (60_exceptions.md R184; 70_reset_and_hazards.md R211). -/
def step (s : State) : Host.Outcome State Fault Refusal := transition s

/-- `s` with the instruction of `nbits` bits `w`, numbered as spec/opcode_table.json numbers them, stored where `step`
fetches its next instruction. -/
def State.withFetchWord (s : State) (nbits w : Nat) : State := s.placeWord (BitVec.ofNat 16 (w % 2 ^ nbits))

end Sys2Proof.Machine
end

