-- ==== Sys2Proof/Safety.lean ====
section
/-! DEFINITION. What counts as a safe run, the invariants of the machine, and the words in which frames and access
conditions are stated (spec 10_state.md R17, R28; 40_step_cycle.md R86; 60_exceptions.md R176). -/

namespace Sys2Proof.Machine

/-- A halted state is "gone wrong"; a running or stopped one is not (60_exceptions.md R176). -/
abbrev State.Safe (s : State) : Prop := s.run ≠ .halted

/-! ### Invariants -/

/-- The invariant of 10_state.md R28, with the memory's canonical form and a legal configuration: `SLOT` is below
STEPS_PER_FRAME; with GLYPH_WRITE_POLICY = fault the glyph table is intact; a fault is recorded exactly when halted,
and its `pc` is `PC` (R24). `SP ≤ 16` holds by `sp`'s type. -/
structure State.Inv (s : State) : Prop where
  mem_wf : s.mem.wf
  cfg_wf : s.cfg.wf
  glyphs : s.cfg.glyphWritePolicy = .fault → s.mem.glyphsIntact
  slot_lt : s.slot < s.cfg.stepsPerFrame
  fault_iff : (∃ f, s.fault = some f) ↔ s.run = .halted
  fault_pc : ∀ f, s.fault = some f → f.pc = s.pc

/-- The bound of 10_state.md R17 on `PC`, with the one on stack entries that it needs: a call is executed at 0x0FFE
at most, so it pushes 0x1000 at most. -/
structure State.PcBounded (s : State) : Prop where
  pc_le : s.pc.toNat ≤ 0x10FE
  stack_le : ∀ j : Fin 16, s.stack[j].toNat ≤ 0x1000

/-! ### Frames: what is the same in `t` as in `s` (40_step_cycle.md R86: what is not written is unchanged) -/

/-- Every general register outside the list. -/
def KeepsRegs (s t : State) (written : List Reg) : Prop := ∀ r, r ∉ written → t.reg r = s.reg r

/-- The index register. -/
def KeepsIndex (s t : State) : Prop := t.i = s.i

/-- The stack pointer and every stack entry. -/
def KeepsStack (s t : State) : Prop := t.sp = s.sp ∧ ∀ j : Fin 16, t.stack[j] = s.stack[j]

/-- Both timers. -/
def KeepsTimers (s t : State) : Prop := t.dt = s.dt ∧ t.st = s.st

/-- Every pixel. -/
def KeepsScreen (s t : State) : Prop := ∀ r c, t.fb.px r c = s.fb.px r c

/-- Every byte of memory. -/
def KeepsMemory (s t : State) : Prop := ∀ a, t.mem.read a = s.mem.read a

/-- Every byte of memory outside the `n` bytes from `a`. -/
def KeepsMemoryOutside (s t : State) (a n : Nat) : Prop :=
  ∀ b, (b < a ∨ a + n ≤ b) → t.mem.read b = s.mem.read b

/-- Run state, fault record, slot count, configuration and inputs. -/
def KeepsEngine (s t : State) : Prop :=
  t.run = s.run ∧ t.fault = s.fault ∧ t.slot = s.slot ∧ t.cfg = s.cfg ∧ t.inputs = s.inputs ∧ t.taken = s.taken

/-- Everything but the listed registers and the program counter. -/
def OnlyRegs (s t : State) (written : List Reg) : Prop :=
  KeepsRegs s t written ∧ KeepsIndex s t ∧ KeepsStack s t ∧ KeepsTimers s t ∧ KeepsScreen s t ∧ KeepsMemory s t ∧
    KeepsEngine s t

/-- Everything but the program counter. -/
def OnlyPc (s t : State) : Prop := OnlyRegs s t []

/-- Everything but the index register and the program counter. -/
def OnlyIndex (s t : State) : Prop :=
  KeepsRegs s t [] ∧ KeepsStack s t ∧ KeepsTimers s t ∧ KeepsScreen s t ∧ KeepsMemory s t ∧ KeepsEngine s t

/-! ### Faults and access conditions -/

/-- `t` is `s` after fault entry and nothing else (60_exceptions.md R175). -/
def Faulted (s t : State) (cause : FaultCause) (instr : Option Word) (info : Option Nat) : Prop :=
  t = { s with run := .halted, fault := some { cause := cause, pc := s.pc, instr := instr, info := info } }

/-- A byte may be stored at `a` (20_memory.md R45, R47). -/
def MayStore (s : State) (a : Nat) : Prop :=
  a < 4096 ∧ (s.cfg.glyphWritePolicy = .fault → a < 0x050 ∨ 0x0A0 ≤ a)

/-- The cause with which a store to `a` faults (20_memory.md R45, R47). -/
def StoreFaults (s : State) (a : Nat) (cause : FaultCause) : Prop :=
  (cause = .addrBounds ∧ 4096 ≤ a) ∨
    (cause = .writeProtect ∧ s.cfg.glyphWritePolicy = .fault ∧ 0x050 ≤ a ∧ a < 0x0A0)

/-- The number of bytes a storing instruction stores, from `I` on (44_index_memory.md R136, R138). -/
def storeLength : Instr → Nat
  | .ldB _ => 3
  | .ldMemVx x => x.val + 1
  | _ => 0

/-- The number of bytes a loading instruction reads, from `I` on (46_display.md R162; 44_index_memory.md R139). -/
def loadLength : Instr → Nat
  | .drw _ _ n => n.toNat
  | .ldVxMem x => x.val + 1
  | _ => 0

/-- The transition of `s` is a slot that takes a step: running, no reset event first, no stop request, and a legal
STEPS_PER_FRAME (60_exceptions.md R184). -/
def State.TakesStep (s : State) : Prop :=
  s.run = .running ∧ (∀ image rest, s.inputs ≠ .reset image :: rest) ∧ s.env.stop = false ∧ 1 ≤ s.cfg.stepsPerFrame

/-- `s` with one input taken. -/
def State.afterInput (s : State) : State := { s with inputs := s.inputs.tail, taken := s.taken + 1 }

end Sys2Proof.Machine
end

