-- ==== Sys2Proof/Certificates/Slice0/Obligations.lean ====
section
/-! DEFINITION. The statements about the machine, from the numbered rules of spec/. A docstring names the rule. Where a
statement rests on a decision of the spec's own (92_eei_decisions.md) the docstring says so. -/

open Sys2Proof Sys2Proof.Machine

/-! ### Control transfer -/

/-- 41_flow.md R90: SYS only advances the program counter, whatever `nnn`. -/
def Obligations.SysIsInert : Prop :=
  ∀ (nnn : BitVec 12) (s : State),
    (nnn ≠ 0x0E0#12 → nnn ≠ 0x0EE#12 → decodeWord (formatNNN 0x0#4 nnn) = .ok (.sys nnn)) ∧
    ∃ t, exec (.sys nnn) s = .next t ∧ t.pc = s.pc + 2 ∧ OnlyPc s t

/-- 41_flow.md R91: JP writes the zero-extended target, unchecked, and nothing else. -/
def Obligations.JpGoesToItsTarget : Prop :=
  ∀ (nnn : BitVec 12) (s : State),
    decodeWord (formatNNN 0x1#4 nnn) = .ok (.jp nnn) ∧
    ∃ t, exec (.jp nnn) s = .next t ∧ t.pc.toNat = nnn.toNat ∧ OnlyPc s t

/-- 41_flow.md, JP V0: the target is `nnn + V[0]`, not reduced modulo 4096 (the spec's decision D17), and always
`V[0]`. -/
def Obligations.JpV0AddsRegisterZero : Prop :=
  ∀ (nnn : BitVec 12) (s : State),
    decodeWord (formatNNN 0xB#4 nnn) = .ok (.jpV0 nnn) ∧
    ∃ t, exec (.jpV0 nnn) s = .next t ∧ t.pc.toNat = nnn.toNat + (s.reg 0).toNat ∧ OnlyPc s t

/-- 41_flow.md, CALL: with room, the return address `pc + 2` (the spec's decision D10) is pushed and control goes to
`nnn`; with 16 entries, StackOverflow(16) and nothing else. -/
def Obligations.CallPushesTheReturnAddress : Prop :=
  ∀ (nnn : BitVec 12) (s : State),
    decodeWord (formatNNN 0x2#4 nnn) = .ok (.call nnn) ∧
    (∀ h : s.sp.val < 16, ∃ t, exec (.call nnn) s = .next t ∧
      t.stack[s.sp.val] = s.pc + 2 ∧ (∀ j : Fin 16, j.val ≠ s.sp.val → t.stack[j] = s.stack[j]) ∧
      t.sp.val = s.sp.val + 1 ∧ t.pc.toNat = nnn.toNat ∧
      KeepsRegs s t [] ∧ KeepsIndex s t ∧ KeepsTimers s t ∧ KeepsScreen s t ∧ KeepsMemory s t ∧ KeepsEngine s t) ∧
    (s.sp.val = 16 → ∃ t, exec (.call nnn) s = .next t ∧
      Faulted s t .stackOverflow (some (encode (.call nnn))) (some 16))

/-- 41_flow.md, RET: with an entry, RET pops it into `PC`, and the entry keeps its value; with none, StackUnderflow(0)
and nothing else; and after a call, a return at the target gives the address after the call and the old depth. The
stack convention and the address a call pushes are the spec's decision D10, the fault record's layout its decision D9,
and that nothing else changes on the fault its decision D8. -/
def Obligations.RetPopsTheReturnAddress : Prop :=
  decodeWord 0x00EE#16 = .ok .ret ∧
  ∀ s : State,
    (∀ h : 0 < s.sp.val, ∃ t, exec .ret s = .next t ∧
      t.sp.val = s.sp.val - 1 ∧ t.pc = s.stack[s.sp.val - 1] ∧ (∀ j : Fin 16, t.stack[j] = s.stack[j]) ∧
      KeepsRegs s t [] ∧ KeepsIndex s t ∧ KeepsTimers s t ∧ KeepsScreen s t ∧ KeepsMemory s t ∧ KeepsEngine s t) ∧
    (s.sp.val = 0 → ∃ t, exec .ret s = .next t ∧ Faulted s t .stackUnderflow (some 0x00EE#16) (some 0)) ∧
    (∀ nnn : BitVec 12, s.sp.val < 16 → ∃ u t, exec (.call nnn) s = .next u ∧ exec .ret u = .next t ∧
      t.pc = s.pc + 2 ∧ t.sp = s.sp)

/-! ### Skips -/

/-- 42_skip.md R100, R101: the immediate skips, by 4 if the condition holds and by 2 if not. -/
def Obligations.SkipsOnImmediates : Prop :=
  ∀ (x : Reg) (kk : Byte) (s : State),
    decodeWord (formatXKK 0x3#4 x kk) = .ok (.seImm x kk) ∧
    decodeWord (formatXKK 0x4#4 x kk) = .ok (.sneImm x kk) ∧
    (∃ t, exec (.seImm x kk) s = .next t ∧
      (s.reg x = kk → t.pc = s.pc + 4) ∧ (s.reg x ≠ kk → t.pc = s.pc + 2) ∧ OnlyPc s t) ∧
    (∃ t, exec (.sneImm x kk) s = .next t ∧
      (s.reg x ≠ kk → t.pc = s.pc + 4) ∧ (s.reg x = kk → t.pc = s.pc + 2) ∧ OnlyPc s t)

/-- 42_skip.md R102, R103: the register skips, for every low nibble. -/
def Obligations.SkipsOnRegisters : Prop :=
  ∀ (x y : Reg) (n : BitVec 4) (s : State),
    decodeWord (formatXYN 0x5#4 x y n) = .ok (.seReg x y n) ∧
    decodeWord (formatXYN 0x9#4 x y n) = .ok (.sneReg x y n) ∧
    (∃ t, exec (.seReg x y n) s = .next t ∧
      (s.reg x = s.reg y → t.pc = s.pc + 4) ∧ (s.reg x ≠ s.reg y → t.pc = s.pc + 2) ∧ OnlyPc s t) ∧
    (∃ t, exec (.sneReg x y n) s = .next t ∧
      (s.reg x ≠ s.reg y → t.pc = s.pc + 4) ∧ (s.reg x = s.reg y → t.pc = s.pc + 2) ∧ OnlyPc s t)

/-! ### Load, ALU, random -/

/-- 43_load_alu.md R110, R111: the immediate load and add; the add wraps modulo 256 and writes no flag. -/
def Obligations.LoadAndAddImmediate : Prop :=
  ∀ (x : Reg) (kk : Byte) (s : State),
    decodeWord (formatXKK 0x6#4 x kk) = .ok (.ldImm x kk) ∧
    decodeWord (formatXKK 0x7#4 x kk) = .ok (.addImm x kk) ∧
    (∃ t, exec (.ldImm x kk) s = .next t ∧ t.reg x = kk ∧ t.pc = s.pc + 2 ∧ OnlyRegs s t [x]) ∧
    (∃ t, exec (.addImm x kk) s = .next t ∧ (t.reg x).toNat = ((s.reg x).toNat + kk.toNat) % 256 ∧
      t.pc = s.pc + 2 ∧ OnlyRegs s t [x])

/-- 43_load_alu.md R113 to R116: move, OR, AND, XOR write `V[x]` alone; `V[15]` only if it is `V[x]`. -/
def Obligations.MoveOrAndXor : Prop :=
  ∀ (x y : Reg) (s : State),
    decodeWord (formatXYN 0x8#4 x y 0x0#4) = .ok (.ldReg x y) ∧
    decodeWord (formatXYN 0x8#4 x y 0x1#4) = .ok (.orReg x y) ∧
    decodeWord (formatXYN 0x8#4 x y 0x2#4) = .ok (.andReg x y) ∧
    decodeWord (formatXYN 0x8#4 x y 0x3#4) = .ok (.xorReg x y) ∧
    (∃ t, exec (.ldReg x y) s = .next t ∧ t.reg x = s.reg y ∧ t.pc = s.pc + 2 ∧ OnlyRegs s t [x]) ∧
    (∃ t, exec (.orReg x y) s = .next t ∧
      (∀ b < 8, (t.reg x).getLsbD b = ((s.reg x).getLsbD b || (s.reg y).getLsbD b)) ∧
      t.pc = s.pc + 2 ∧ OnlyRegs s t [x]) ∧
    (∃ t, exec (.andReg x y) s = .next t ∧
      (∀ b < 8, (t.reg x).getLsbD b = ((s.reg x).getLsbD b && (s.reg y).getLsbD b)) ∧
      t.pc = s.pc + 2 ∧ OnlyRegs s t [x]) ∧
    (∃ t, exec (.xorReg x y) s = .next t ∧
      (∀ b < 8, (t.reg x).getLsbD b = ((s.reg x).getLsbD b ^^ (s.reg y).getLsbD b)) ∧
      t.pc = s.pc + 2 ∧ OnlyRegs s t [x])

/-- 43_load_alu.md, ADD: the sum modulo 256, and its carry in `V[15]`, from the operands before the instruction; with
`x` = 15 the flag is what `V[15]` holds (the spec's decision D11). -/
def Obligations.AddSetsTheCarry : Prop :=
  ∀ (x y : Reg) (s : State),
    decodeWord (formatXYN 0x8#4 x y 0x4#4) = .ok (.addReg x y) ∧
    ∃ t, exec (.addReg x y) s = .next t ∧
      (x ≠ 15 → (t.reg x).toNat = ((s.reg x).toNat + (s.reg y).toNat) % 256) ∧
      (255 < (s.reg x).toNat + (s.reg y).toNat → t.reg 15 = 0x01) ∧
      ((s.reg x).toNat + (s.reg y).toNat ≤ 255 → t.reg 15 = 0x00) ∧
      t.pc = s.pc + 2 ∧ OnlyRegs s t [x, 15]

/-- 43_load_alu.md, SUB and SUBN: `V[x] - V[y]` and `V[y] - V[x]`, both into `V[x]` modulo 256; the flag is 1 iff
minuend ≥ subtrahend, and it wins with `x` = 15 (the spec's decision D11). -/
def Obligations.SubtractionsSetNoBorrow : Prop :=
  ∀ (x y : Reg) (s : State),
    decodeWord (formatXYN 0x8#4 x y 0x5#4) = .ok (.subReg x y) ∧
    decodeWord (formatXYN 0x8#4 x y 0x7#4) = .ok (.subnReg x y) ∧
    (∃ t, exec (.subReg x y) s = .next t ∧
      (x ≠ 15 → ((s.reg y).toNat ≤ (s.reg x).toNat → (t.reg x).toNat = (s.reg x).toNat - (s.reg y).toNat) ∧
        ((s.reg x).toNat < (s.reg y).toNat → (t.reg x).toNat = (s.reg x).toNat + 256 - (s.reg y).toNat)) ∧
      ((s.reg y).toNat ≤ (s.reg x).toNat → t.reg 15 = 0x01) ∧
      ((s.reg x).toNat < (s.reg y).toNat → t.reg 15 = 0x00) ∧
      t.pc = s.pc + 2 ∧ OnlyRegs s t [x, 15]) ∧
    (∃ t, exec (.subnReg x y) s = .next t ∧
      (x ≠ 15 → ((s.reg x).toNat ≤ (s.reg y).toNat → (t.reg x).toNat = (s.reg y).toNat - (s.reg x).toNat) ∧
        ((s.reg y).toNat < (s.reg x).toNat → (t.reg x).toNat = (s.reg y).toNat + 256 - (s.reg x).toNat)) ∧
      ((s.reg x).toNat ≤ (s.reg y).toNat → t.reg 15 = 0x01) ∧
      ((s.reg y).toNat < (s.reg x).toNat → t.reg 15 = 0x00) ∧
      t.pc = s.pc + 2 ∧ OnlyRegs s t [x, 15])

/-- 43_load_alu.md, SHR and SHL: the shifts by one of `V[x]`, whatever `regY`, with the bit shifted out in `V[15]`,
which wins with `x` = 15 (the spec's decision D11). -/
def Obligations.ShiftsSetTheBitShiftedOut : Prop :=
  ∀ (x y : Reg) (s : State),
    decodeWord (formatXYN 0x8#4 x y 0x6#4) = .ok (.shr x y) ∧
    decodeWord (formatXYN 0x8#4 x y 0xE#4) = .ok (.shl x y) ∧
    (∃ t, exec (.shr x y) s = .next t ∧
      (x ≠ 15 → (t.reg x).toNat = (s.reg x).toNat / 2) ∧
      (t.reg 15).toNat = (s.reg x).toNat % 2 ∧ t.pc = s.pc + 2 ∧ OnlyRegs s t [x, 15]) ∧
    (∃ t, exec (.shl x y) s = .next t ∧
      (x ≠ 15 → (t.reg x).toNat = (s.reg x).toNat * 2 % 256) ∧
      (t.reg 15).toNat = (s.reg x).toNat / 128 ∧ t.pc = s.pc + 2 ∧ OnlyRegs s t [x, 15])

/-- 43_load_alu.md, RND: the drawn byte masked with `kk`. The byte is the sample's where the slot has one, any value
otherwise (the spec's decision D18; assumption 4). -/
def Obligations.RndMasksTheDrawnByte : Prop :=
  ∀ (x : Reg) (kk : Byte) (s : State),
    decodeWord (formatXKK 0xC#4 x kk) = .ok (.rnd x kk) ∧
    ∃ t, exec (.rnd x kk) s = .next t ∧
      (∃ drawn : Byte, (∀ e rest, s.inputs = .slot e :: rest → drawn = e.rnd) ∧ t.reg x = drawn &&& kk) ∧
      (∀ b < 8, kk.getLsbD b = false → (t.reg x).getLsbD b = false) ∧
      t.pc = s.pc + 2 ∧ OnlyRegs s t [x]

/-! ### Index register and memory -/

/-- 44_index_memory.md R131: LD I writes the zero-extended address, unchecked. -/
def Obligations.LoadIndexWritesTheAddress : Prop :=
  ∀ (nnn : BitVec 12) (s : State),
    decodeWord (formatNNN 0xA#4 nnn) = .ok (.ldI nnn) ∧
    ∃ t, exec (.ldI nnn) s = .next t ∧ t.i.toNat = nnn.toNat ∧ t.pc = s.pc + 2 ∧ OnlyIndex s t

/-- 44_index_memory.md, ADD I and LD F: the sum wraps modulo 65536 with no flag (the spec's decision D17), and the
glyph address uses the whole register value (the spec's decision D13). -/
def Obligations.AddToIndexAndGlyphAddress : Prop :=
  ∀ (x : Reg) (s : State),
    decodeWord (formatXSS 0xF#4 x 0x1E#8) = .ok (.addI x) ∧
    decodeWord (formatXSS 0xF#4 x 0x29#8) = .ok (.ldF x) ∧
    (∃ t, exec (.addI x) s = .next t ∧ t.i.toNat = (s.i.toNat + (s.reg x).toNat) % 65536 ∧
      t.pc = s.pc + 2 ∧ OnlyIndex s t) ∧
    (∃ t, exec (.ldF x) s = .next t ∧ t.i.toNat = 0x050 + 5 * (s.reg x).toNat ∧
      t.pc = s.pc + 2 ∧ OnlyIndex s t)

/-- 44_index_memory.md, LD B: where all three bytes may be stored, the decimal digits of `V[x]`, hundreds first, at
`I`, `I+1`, `I+2`, no other byte and no register. Which stores are legal rests on the spec's decision D5. -/
def Obligations.BcdStoresThreeDigits : Prop :=
  ∀ (x : Reg) (s : State),
    decodeWord (formatXSS 0xF#4 x 0x33#8) = .ok (.ldB x) ∧
    (s.mem.wf → (∀ k < 3, MayStore s (s.i.toNat + k)) →
      ∃ t, exec (.ldB x) s = .next t ∧
        (t.mem.read s.i.toNat).toNat = (s.reg x).toNat / 100 ∧
        (t.mem.read (s.i.toNat + 1)).toNat = (s.reg x).toNat / 10 % 10 ∧
        (t.mem.read (s.i.toNat + 2)).toNat = (s.reg x).toNat % 10 ∧
        100 * (t.mem.read s.i.toNat).toNat + 10 * (t.mem.read (s.i.toNat + 1)).toNat +
          (t.mem.read (s.i.toNat + 2)).toNat = (s.reg x).toNat ∧
        KeepsMemoryOutside s t s.i.toNat 3 ∧ t.pc = s.pc + 2 ∧
        KeepsRegs s t [] ∧ KeepsIndex s t ∧ KeepsStack s t ∧ KeepsTimers s t ∧ KeepsScreen s t ∧ KeepsEngine s t)

/-- 44_index_memory.md, LD [I], Vx: where all `x+1` bytes may be stored, `V[0]` to `V[x]` at ascending addresses from
`I` and no other byte; `I` as LDST_I_INC says (0 is the spec's decision D12). -/
def Obligations.BulkStoreWritesRegisters : Prop :=
  ∀ (x : Reg) (s : State),
    decodeWord (formatXSS 0xF#4 x 0x55#8) = .ok (.ldMemVx x) ∧
    (s.mem.wf → (∀ k ≤ x.val, MayStore s (s.i.toNat + k)) →
      ∃ t, exec (.ldMemVx x) s = .next t ∧
        (∀ k : Reg, k ≤ x → t.mem.read (s.i.toNat + k.val) = s.reg k) ∧
        KeepsMemoryOutside s t s.i.toNat (x.val + 1) ∧
        (s.cfg.ldstIInc = false → t.i = s.i) ∧
        (s.cfg.ldstIInc = true → t.i.toNat = (s.i.toNat + x.val + 1) % 65536) ∧
        t.pc = s.pc + 2 ∧
        KeepsRegs s t [] ∧ KeepsStack s t ∧ KeepsTimers s t ∧ KeepsScreen s t ∧ KeepsEngine s t)

/-- 44_index_memory.md, LD Vx, [I]: where the `x+1` bytes lie below 4096, they are loaded into `V[0]` to `V[x]`, and
`V[x+1]` and up are unchanged; `I` as LDST_I_INC says (0 is the spec's decision D12). -/
def Obligations.BulkLoadReadsRegisters : Prop :=
  ∀ (x : Reg) (s : State),
    decodeWord (formatXSS 0xF#4 x 0x65#8) = .ok (.ldVxMem x) ∧
    (s.i.toNat + x.val < 4096 →
      ∃ t, exec (.ldVxMem x) s = .next t ∧
        (∀ k : Reg, k ≤ x → t.reg k = s.mem.read (s.i.toNat + k.val)) ∧
        (∀ k : Reg, x < k → t.reg k = s.reg k) ∧
        (s.cfg.ldstIInc = false → t.i = s.i) ∧
        (s.cfg.ldstIInc = true → t.i.toNat = (s.i.toNat + x.val + 1) % 65536) ∧
        t.pc = s.pc + 2 ∧
        KeepsStack s t ∧ KeepsTimers s t ∧ KeepsScreen s t ∧ KeepsMemory s t ∧ KeepsEngine s t)

/-- 20_memory.md section 2 and 44_index_memory.md section 3: a store that meets an illegal address faults with the
first one in ascending order, and nothing is written (the spec's decisions D5 and D8). -/
def Obligations.StoresFaultAtTheFirstBadAddress : Prop :=
  ∀ (i : Instr) (s : State) (a : Nat) (cause : FaultCause),
    (∃ x, i = .ldB x ∨ i = .ldMemVx x) →
    s.i.toNat ≤ a → a < s.i.toNat + storeLength i →
    (∀ b, s.i.toNat ≤ b → b < a → MayStore s b) → StoreFaults s a cause →
    ∃ t, exec i s = .next t ∧ Faulted s t cause (some (encode i)) (some a)

/-- 20_memory.md section 2: a draw or bulk load that meets an address of 4096 or more faults with the first one, and
nothing is written (the spec's decision D8). -/
def Obligations.LoadsFaultAtTheFirstBadAddress : Prop :=
  ∀ (i : Instr) (s : State) (a : Nat),
    ((∃ x y n, i = .drw x y n) ∨ ∃ x, i = .ldVxMem x) →
    s.i.toNat ≤ a → a < s.i.toNat + loadLength i → (∀ b, s.i.toNat ≤ b → b < a → b < 4096) → 4096 ≤ a →
    ∃ t, exec i s = .next t ∧ Faulted s t .addrBounds (some (encode i)) (some a)

/-- 20_memory.md R48, R54: two bytes a program stores at `I` are the word the fetch at `I` gives, the byte at the lower
address in bits 15 to 8. -/
def Obligations.StoredWordIsFetchedBigEndian : Prop :=
  ∀ (x : Reg) (s t : State),
    1 ≤ x.val → s.mem.wf → (∀ k ≤ x.val, MayStore s (s.i.toNat + k)) → exec (.ldMemVx x) s = .next t →
    ∃ w, State.fetch { t with pc := s.i } = some w ∧ w.toNat = 256 * (s.reg 0).toNat + (s.reg 1).toNat

/-! ### Timers and keys -/

/-- 45_timer_key.md R146 to R148: the delay timer is read and written, the sound timer written; a write takes effect at
once, the next tick decrements the new value if it is nonzero, and the sound output says whether `ST` is nonzero. -/
def Obligations.TimerInstructionsMoveTheTimers : Prop :=
  ∀ (x : Reg) (s : State),
    decodeWord (formatXSS 0xF#4 x 0x07#8) = .ok (.ldVxDT x) ∧
    decodeWord (formatXSS 0xF#4 x 0x15#8) = .ok (.ldDTVx x) ∧
    decodeWord (formatXSS 0xF#4 x 0x18#8) = .ok (.ldSTVx x) ∧
    (∃ t, exec (.ldVxDT x) s = .next t ∧ t.reg x = s.dt ∧ t.pc = s.pc + 2 ∧ OnlyRegs s t [x]) ∧
    (∃ t, exec (.ldDTVx x) s = .next t ∧ t.dt = s.reg x ∧ t.st = s.st ∧ t.pc = s.pc + 2 ∧
      t.endOfFrame.dt.toNat = (s.reg x).toNat - 1 ∧
      KeepsRegs s t [] ∧ KeepsIndex s t ∧ KeepsStack s t ∧ KeepsScreen s t ∧ KeepsMemory s t ∧ KeepsEngine s t) ∧
    (∃ t, exec (.ldSTVx x) s = .next t ∧ t.st = s.reg x ∧ t.dt = s.dt ∧ t.pc = s.pc + 2 ∧
      (t.soundActive = true ↔ s.reg x ≠ 0x00) ∧
      KeepsRegs s t [] ∧ KeepsIndex s t ∧ KeepsStack s t ∧ KeepsScreen s t ∧ KeepsMemory s t ∧ KeepsEngine s t)

/-- 45_timer_key.md, SKP and SKNP: the key whose code is `V[x]` is held or not; a code of 16 or more is never held (the
spec's decision D14). -/
def Obligations.KeySkipsTestTheKey : Prop :=
  ∀ (x : Reg) (s : State),
    decodeWord (formatXSS 0xE#4 x 0x9E#8) = .ok (.skp x) ∧
    decodeWord (formatXSS 0xE#4 x 0xA1#8) = .ok (.sknp x) ∧
    (∃ t, exec (.skp x) s = .next t ∧
      ((∃ k ∈ s.env.keys, k.val = (s.reg x).toNat) → t.pc = s.pc + 4) ∧
      ((∀ k ∈ s.env.keys, k.val ≠ (s.reg x).toNat) → t.pc = s.pc + 2) ∧ OnlyPc s t) ∧
    (∃ t, exec (.sknp x) s = .next t ∧
      ((∃ k ∈ s.env.keys, k.val = (s.reg x).toNat) → t.pc = s.pc + 2) ∧
      ((∀ k ∈ s.env.keys, k.val ≠ (s.reg x).toNat) → t.pc = s.pc + 4) ∧ OnlyPc s t)

/-- 45_timer_key.md, LD Vx, K: with a key held, a held key's code is loaded, the sample's pick if it is held (KEY_PICK,
the spec's decision D15); with none held no state changes, `PC` included. -/
def Obligations.KeyWaitLoadsAHeldKey : Prop :=
  ∀ (x : Reg) (s : State),
    decodeWord (formatXSS 0xF#4 x 0x0A#8) = .ok (.ldVxK x) ∧
    (s.env.keys ≠ [] → ∃ t, exec (.ldVxK x) s = .next t ∧
      (∃ k ∈ s.env.keys, (t.reg x).toNat = k.val) ∧
      (s.env.pick ∈ s.env.keys → (t.reg x).toNat = s.env.pick.val) ∧
      t.pc = s.pc + 2 ∧ OnlyRegs s t [x]) ∧
    (s.env.keys = [] → exec (.ldVxK x) s = .next s)

/-- 60_exceptions.md, Input Capability: both queries are answered from the sample of the step; a code of 16 or more is
never held, no key is reported exactly when none is held, and the key reported is held (the spec's decisions D14 and
D15; assumption 6). -/
def Obligations.KeyQueriesAnswerFromTheSample : Prop :=
  (∀ (s : State) (e : Env) (rest : List Input), s.inputs = .slot e :: rest → s.env = e) ∧
  ∀ e : Env,
    (∀ k : Byte, e.keyHeld k = true ↔ k.toNat ≤ 15 ∧ ∃ j ∈ e.keys, j.val = k.toNat) ∧
    (e.anyKey = none ↔ e.keys = []) ∧ (∀ k, e.anyKey = some k → k ∈ e.keys) ∧
    (e.pick ∈ e.keys → e.anyKey = some e.pick)

/-! ### Display -/

/-- 46_display.md R161: CLS turns every pixel off and does nothing else but advance. -/
def Obligations.ClsTurnsEveryPixelOff : Prop :=
  decodeWord 0x00E0#16 = .ok .cls ∧
  ∀ s : State, ∃ t, exec .cls s = .next t ∧ (∀ r c, t.fb.px r c = false) ∧ t.pc = s.pc + 2 ∧
    KeepsRegs s t [] ∧ KeepsIndex s t ∧ KeepsStack s t ∧ KeepsTimers s t ∧ KeepsMemory s t ∧ KeepsEngine s t

/-- The pixel (r, c) lies under a 1 bit of the sprite of `DRW Vx, Vy, n`: bit 7 of a sprite byte is column 0, and the
coordinates wrap (46_display.md R162). -/
def SpriteCovers (s : State) (x y : Reg) (n : BitVec 4) (r : Fin 32) (c : Fin 64) : Prop :=
  ∃ row < n.toNat, ∃ col < 8, (s.mem.read (s.i.toNat + row)).getLsbD (7 - col) = true ∧
    c.val = ((s.reg x).toNat + col) % 64 ∧ r.val = ((s.reg y).toNat + row) % 32

/-- 46_display.md, DRW: the rule's loop over rows and columns comes to this: exactly the pixels under a 1 bit of the
sprite are flipped, and `V[15]` is 1 iff one of them was on; height 0 draws nothing (the spec's decision D16). -/
def Obligations.DrawXorsTheSprite : Prop :=
  ∀ (x y : Reg) (n : BitVec 4) (s : State),
    decodeWord (formatXYN 0xD#4 x y n) = .ok (.drw x y n) ∧
    ((n = 0#4 ∨ s.i.toNat + n.toNat ≤ 4096) →
      ∃ t, exec (.drw x y n) s = .next t ∧
        (∀ r c, SpriteCovers s x y n r c → t.fb.px r c = !s.fb.px r c) ∧
        (∀ r c, ¬ SpriteCovers s x y n r c → t.fb.px r c = s.fb.px r c) ∧
        ((∃ r c, SpriteCovers s x y n r c ∧ s.fb.px r c = true) → t.reg 15 = 0x01) ∧
        ((∀ r c, SpriteCovers s x y n r c → s.fb.px r c = false) → t.reg 15 = 0x00) ∧
        t.pc = s.pc + 2 ∧
        KeepsRegs s t [15] ∧ KeepsIndex s t ∧ KeepsStack s t ∧ KeepsTimers s t ∧ KeepsMemory s t ∧
        KeepsEngine s t)

/-- 46_display.md, DRW, the property of the source: drawing the same sprite twice at the same coordinates restores the
framebuffer, and the second collision flag is 1 iff the sprite has a 1 bit. -/
def Obligations.DrawTwiceRestoresTheScreen : Prop :=
  ∀ (x y : Reg) (n : BitVec 4) (s : State),
    x ≠ 15 → y ≠ 15 → (n = 0#4 ∨ s.i.toNat + n.toNat ≤ 4096) →
    ∃ t u, exec (.drw x y n) s = .next t ∧ exec (.drw x y n) t = .next u ∧ u.fb = s.fb ∧
      ((∃ row < n.toNat, s.mem.read (s.i.toNat + row) ≠ 0x00) → u.reg 15 = 0x01) ∧
      ((∀ row < n.toNat, s.mem.read (s.i.toNat + row) = 0x00) → u.reg 15 = 0x00)

/-- 46_display.md R160: the framebuffer is changed by CLS and DRW alone, and read by DRW alone, and by DRW only for the
collision flag. -/
def Obligations.FramebufferIsForClsAndDrw : Prop :=
  ∀ (i : Instr) (s t : State) (g : Framebuffer), exec i s = .next t →
    ((∀ x y n, i ≠ .drw x y n) → i ≠ .cls → t.fb = s.fb) ∧
    ((∀ x y n, i ≠ .drw x y n) → exec i { s with fb := g } = .next { t with fb := if i = .cls then t.fb else g }) ∧
    ((∃ x y n, i = .drw x y n) →
      ∃ u, exec i { s with fb := g } = .next u ∧ u = { t with fb := u.fb, v := t.v.set 15 (u.reg 15) })

/-! ### The step and the frame engine -/

/-- 40_step_cycle.md, the step: where the two bytes at `PC` decode to an instruction, the step is that instruction
executed at this state, with the slot accounting of the frame engine around it (`endSlot`) and one input taken. -/
def Obligations.StepRunsTheDecodedInstruction : Prop :=
  ∀ (s : State) (i : Instr),
    s.TakesStep → s.pc.toNat ≤ 0x0FFE →
    decodeBytes [s.mem.read s.pc.toNat, s.mem.read (s.pc.toNat + 1)] = .ok (i, []) →
    ∃ t, exec i s = .next t ∧ step s = .next (endSlot (yields i s) t).takeInput

/-- 60_exceptions.md section 5: what a slot adds to a step that left `t`. A completed step counts one slot, and the
last of the frame ends it: `SLOT` 0 and both timers down by one if nonzero; a yield ends it at once; a fault counts
nothing. The order inside a frame is the spec's decision D2, the yield its decision D20. -/
def Obligations.SlotAccountingOfAStep : Prop :=
  ∀ (yielded : Bool) (t : State),
    (t.run = .running → yielded = false → t.slot + 1 ≠ t.cfg.stepsPerFrame →
      endSlot yielded t = { t with slot := t.slot + 1 }) ∧
    (t.run = .running → (yielded = true ∨ t.slot + 1 = t.cfg.stepsPerFrame) →
      endSlot yielded t =
        { t with slot := 0, dt := BitVec.ofNat 8 (t.dt.toNat - 1), st := BitVec.ofNat 8 (t.st.toNat - 1) }) ∧
    (t.run ≠ .running → endSlot yielded t = t) ∧
    ∀ (i : Instr), yields i t = true ↔ (∃ x, i = .ldVxK x) ∧ t.env.keys = []

/-- 60_exceptions.md section 5, TimerTick: after `k` ends of frame each timer is down by `k`, never below 0, and a timer
at 0 stays there; nothing else changes but `SLOT`. -/
def Obligations.TimersCountDownToZeroAndStay : Prop :=
  ∀ (s : State) (k : Nat),
    ∃ t, t = (State.endOfFrame)^[k] s ∧
      t.dt.toNat = s.dt.toNat - k ∧ t.st.toNat = s.st.toNat - k ∧
      t = { s with dt := t.dt, st := t.st, slot := if k = 0 then s.slot else 0 }

/-- 60_exceptions.md section 6, Render: what a transition presents is the framebuffer after the frame's last step, at
the end of a frame and nowhere else. -/
def Obligations.RenderPresentsTheEndOfFrame : Prop :=
  ∀ s t : State, step s = .next t →
    (∀ f, rendered s = some f → s.TakesStep ∧ f = t.fb ∧ t.slot = 0 ∧ t.run = .running) ∧
    (rendered s = none → s.TakesStep → t.run = .running →
      ∃ u, stepOnce s = .next u ∧ t.slot = u.slot + 1 ∧ t.dt = u.dt ∧ t.st = u.st)

/-- 40_step_cycle.md, fetch: `PC` above 0x0FFE raises PcBounds at the fetch, with no word, and nothing else changes
(the spec's decision D7). -/
def Obligations.FetchPastTheEndHalts : Prop :=
  ∀ s : State, s.TakesStep → 0x0FFE < s.pc.toNat →
    ∃ t, step s = .next t.afterInput ∧ Faulted s t .pcBounds none (some s.pc.toNat)

/-- 60_exceptions.md R172: an illegal word fetched for execution halts the engine with the word and its address in the
record, never a silent no-op; and only such a word raises DecodeFault. -/
def Obligations.IllegalWordHalts : Prop :=
  ∀ s : State, s.TakesStep →
    (∀ (w : Word) (e : DecodeError), s.fetch = some w → decodeWord w = .error e →
      ∃ t f, step s = .next t ∧ t.run = .halted ∧ t.fault = some f ∧
        f.cause = .decodeFault ∧ f.instr = some w ∧ f.pc = s.pc) ∧
    (∀ (t : State) (f : FaultRecord), step s = .next t → t.run ≠ .running → t.fault = some f → f.cause = .decodeFault →
      ∃ w e, s.fetch = some w ∧ decodeWord w = .error e ∧ f.instr = some w ∧ f.pc = s.pc)

/-- The record of a decode fault has the word as its info, that of a load fault the length of the image or none, with no
instruction word and the reset `PC`; and the seven causes have the codes 1 to 7 (10_state.md section 9 and
60_exceptions.md section 1, the layout and the codes the spec's decision D9). -/
def Obligations.FaultRecordsCarryTheirInfo : Prop :=
  (∀ (s : State) (w : Word) (e : DecodeError), s.TakesStep → s.fetch = some w → decodeWord w = .error e →
    ∃ t, step s = .next t.afterInput ∧ Faulted s t .decodeFault (some w) (some w.toNat)) ∧
  (∀ (cfg : Config) (image : Option (List Byte)), (∀ bytes, image = some bytes → 3584 < bytes.length) →
    (resetWith cfg image).fault =
      some { cause := .loadFault, pc := 0x0200, instr := none, info := image.map List.length }) ∧
  [FaultCause.loadFault, .decodeFault, .pcBounds, .addrBounds, .stackOverflow, .stackUnderflow, .writeProtect].map
    FaultCause.code = [1, 2, 3, 4, 5, 6, 7]

/-- 60_exceptions.md section 2: faults are precise. A step that halts changes `RUN` and `FAULT` and nothing else, and
the record names the address of the instruction (the spec's decision D8). -/
def Obligations.FaultsArePrecise : Prop :=
  ∀ s t : State, s.TakesStep → step s = .next t → t.run ≠ .running →
    ∃ f : FaultRecord, f.pc = s.pc ∧ t = ({ s with run := .halted, fault := some f } : State).afterInput

/-- 60_exceptions.md section 1: only these instructions fault in execution, each with its own causes and conditions; no
other instruction and no other condition raises a fault (the causes are the spec's decision D9). -/
def Obligations.FaultsComeOnlyFromTheirInstructions : Prop :=
  ∀ (i : Instr) (s t : State), exec i s = .next t → s.run = .running → t.run ≠ .running →
    ∃ f, t.fault = some f ∧ f.instr = some (encode i) ∧
      ((f.cause = .stackOverflow ∧ (∃ nnn, i = .call nnn) ∧ s.sp.val = 16) ∨
       (f.cause = .stackUnderflow ∧ i = .ret ∧ s.sp.val = 0) ∨
       (f.cause = .addrBounds ∧ (∃ a, f.info = some a ∧ 4096 ≤ a ∧ s.i.toNat ≤ a ∧
          a < s.i.toNat + (storeLength i + loadLength i))) ∨
       (f.cause = .writeProtect ∧ s.cfg.glyphWritePolicy = .fault ∧ (∃ a, f.info = some a ∧ 0x050 ≤ a ∧ a < 0x0A0 ∧
          s.i.toNat ≤ a ∧ a < s.i.toNat + storeLength i)))

/-- 60_exceptions.md section 6, stop request: looked at before a step; `RUN` becomes Stopped and nothing else changes,
no step and no tick (the spec's decision D21). -/
def Obligations.StopRequestStopsBeforeTheStep : Prop :=
  ∀ s : State, s.run = .running → (∀ image rest, s.inputs ≠ .reset image :: rest) → s.env.stop = true →
    step s = .next ({ s with run := .stopped } : State).afterInput

/-- 60_exceptions.md sections 2 and 3: a halted or stopped core does nothing, for any number of transitions and any
inputs but a reset; the inputs pass and nothing else changes (the spec's decision D19). -/
def Obligations.HaltedAndStoppedAreAbsorbing : Prop :=
  ∀ (s : State) (k : Nat), s.run ≠ .running → (∀ image, Input.reset image ∉ s.inputs) →
    Host.Core.run Sys2Proof.core k s =
      .next ({ s with inputs := s.inputs.drop k, taken := s.taken + k } : State)

/-- 70_reset_and_hazards.md section 1: a reset event, in any run state, discards everything; only the configuration and
the inputs still to come remain (the reset event is the spec's decision D1). -/
def Obligations.ResetEventDiscardsEverything : Prop :=
  ∀ (s : State) (image : Option (List Byte)) (rest : List Input), s.inputs = .reset image :: rest →
    step s = .next { resetWith s.cfg image with inputs := rest, taken := s.taken + 1 }

/-- A step answers a next state from every state with a legal configuration: no instruction, operand or memory content
makes the model stop. It stops only a running core whose STEPS_PER_FRAME is 0, which 00_scope.md excludes. -/
def Obligations.EveryStepAnswersANextState : Prop :=
  ∀ s : State,
    (1 ≤ s.cfg.stepsPerFrame → ∃ t, step s = .next t) ∧
    (∀ f, step s = .fault f → s.cfg.stepsPerFrame = 0 ∧ s.run = .running) ∧ ∀ r, step s ≠ .refused r

/-! ### Reset -/

/-- 10_state.md section 12: every element of the state right after reset. `PC`, the framebuffer and the glyph table's
place are the source's; the other values are the spec's decisions D2, D3, D4, D9, D19. -/
def Obligations.ResetStateHasTheResetValues : Prop :=
  State.reset.pc = 0x0200 ∧ (∀ r c, State.reset.fb.px r c = false) ∧
  (∀ k : Fin 80, State.reset.mem.read (0x050 + k.val) = glyphs.getD k.val 0x00) ∧
  (∀ a, (a < 0x050 ∨ 0x0A0 ≤ a) → State.reset.mem.read a = 0x00) ∧
  (∀ r, State.reset.reg r = 0x00) ∧ State.reset.i = 0x0000 ∧ State.reset.sp = 0 ∧
  (∀ j : Fin 16, State.reset.stack[j] = 0x0000) ∧ State.reset.dt = 0x00 ∧ State.reset.st = 0x00 ∧
  State.reset.run = .running ∧ State.reset.fault = none ∧ State.reset.slot = 0 ∧
  State.reset = resetWith Config.default (some [])

/-- 70_reset_and_hazards.md section 1: a legal image lies verbatim at 0x200, the glyph table at 0x050, `MEM_FILL`
everywhere else, and the core runs from 0x200 with nothing else different from the reset state (the register values are
the spec's decision D3, the fill its decision D4). -/
def Obligations.ResetLoadsTheImage : Prop :=
  ∀ (cfg : Config) (image : List Byte), cfg.wf → image.length ≤ 3584 →
    ∃ s, s = resetWith cfg (some image) ∧ s.mem.wf ∧
      (∀ (k : Nat) (h : k < image.length), s.mem.read (0x200 + k) = image[k]) ∧
      (∀ k < 80, s.mem.read (0x050 + k) = glyphs.getD k 0x00) ∧
      (∀ a, (a < 0x050 ∨ (0x0A0 ≤ a ∧ a < 0x200) ∨ 0x200 + image.length ≤ a) → s.mem.read a = cfg.memFill.read a) ∧
      s = { State.reset with cfg := cfg, mem := s.mem }

/-- 70_reset_and_hazards.md section 1, load fault: an over-long or absent image is a load fault: the reset state with no
image byte loaded, `RUN` Halted and the cause LoadFault, and no step is ever taken; 3584 bytes load. That the empty
image loads is the spec's decision D4, the fault record and no fault at reset its decision D9, `RUN` at reset and in the
halted state its decision D19; how inputs pass a halted core is the model's choice (assumption 3). -/
def Obligations.LoadFaultStartsHalted : Prop :=
  (∀ (cfg : Config) (image : Option (List Byte)), (∀ bytes, image = some bytes → 3584 < bytes.length) →
    (∃ f : FaultRecord, f.cause = .loadFault ∧
      resetWith cfg image = { resetWith cfg (some []) with run := .halted, fault := some f }) ∧
    ∀ (q : List Input) (k : Nat), (∀ im, Input.reset im ∉ q) →
      Host.Core.run Sys2Proof.core k ({ resetWith cfg image with inputs := q } : State) =
        .next ({ resetWith cfg image with inputs := q.drop k, taken := k } : State)) ∧
  ∀ (cfg : Config) (bytes : List Byte), bytes.length ≤ 3584 →
    (resetWith cfg (some bytes)).run = .running ∧ (resetWith cfg (some bytes)).fault = none

/-! ### Whole-machine rules -/

/-- The six operations of 10_state.md R13. -/
def writesFlag : Instr → Bool
  | .addReg _ _ => true
  | .subReg _ _ => true
  | .shr _ _ => true
  | .subnReg _ _ => true
  | .shl _ _ => true
  | .drw _ _ _ => true
  | _ => false

/-- The instructions whose `regX` is a destination (10_state.md R30, row `V[x]`, written by). -/
def destination : Instr → Option Reg
  | .ldImm x _ => some x
  | .addImm x _ => some x
  | .ldReg x _ => some x
  | .orReg x _ => some x
  | .andReg x _ => some x
  | .xorReg x _ => some x
  | .addReg x _ => some x
  | .subReg x _ => some x
  | .shr x _ => some x
  | .subnReg x _ => some x
  | .shl x _ => some x
  | .rnd x _ => some x
  | .ldVxDT x => some x
  | .ldVxK x => some x
  | _ => none

/-- 10_state.md section 2: six operations leave a flag in `V[15]`, always 0x00 or 0x01; no other writes it unless it
names register 15 as its destination or is the bulk load with x = 15. That `V[15]` ends as the flag with x = 15 is the
spec's decision D11, and the flag of a draw of height 0 its decision D16. -/
def Obligations.SixOperationsWriteTheFlag : Prop :=
  ∀ (i : Instr) (s t : State), exec i s = .next t → s.run = .running →
    (writesFlag i = true → t.run = .running → t.reg 15 = 0x00 ∨ t.reg 15 = 0x01) ∧
    (writesFlag i = false → destination i ≠ some 15 → i ≠ .ldVxMem 15 → t.reg 15 = s.reg 15)

/-- 10_state.md section 13: who writes what. A register is written only as a destination, as the flag, or by the bulk
load; `I` by LD I, ADD I, LD F, and by the bulk transfers only under LDST_I_INC; `SP` and `STACK` by CALL and RET;
`DT`, `ST` by their loads; `MEM` by LD B and LD [I]. -/
def Obligations.EachStateHasItsWriters : Prop :=
  ∀ (i : Instr) (s t : State), exec i s = .next t →
    (∀ r, t.reg r ≠ s.reg r → destination i = some r ∨ (writesFlag i = true ∧ r = 15) ∨ ∃ x, i = .ldVxMem x ∧ r ≤ x) ∧
    (t.i ≠ s.i → (∃ nnn, i = .ldI nnn) ∨ (∃ x, i = .addI x ∨ i = .ldF x) ∨
      (s.cfg.ldstIInc = true ∧ ∃ x, i = .ldMemVx x ∨ i = .ldVxMem x)) ∧
    (t.sp ≠ s.sp → (∃ nnn, i = .call nnn) ∨ i = .ret) ∧
    (t.stack ≠ s.stack → ∃ nnn, i = .call nnn) ∧
    (t.dt ≠ s.dt → ∃ x, i = .ldDTVx x) ∧ (t.st ≠ s.st → ∃ x, i = .ldSTVx x) ∧
    (t.mem ≠ s.mem → ∃ x, i = .ldB x ∨ i = .ldMemVx x) ∧
    t.slot = s.slot ∧ t.cfg = s.cfg ∧ t.inputs = s.inputs ∧ t.taken = s.taken

/-- 10_state.md section 13 (rows keys and random draw): an instruction other than RND, SKP, SKNP and LD Vx, K does not
depend on the environment. -/
def Obligations.OnlyFourInstructionsReadTheInputs : Prop :=
  ∀ (i : Instr) (s t : State) (q : List Input) (m : Nat),
    (∀ x kk, i ≠ .rnd x kk) → (∀ x, i ≠ .skp x) → (∀ x, i ≠ .sknp x) → (∀ x, i ≠ .ldVxK x) →
    exec i s = .next t → exec i { s with inputs := q, taken := m } = .next { t with inputs := q, taken := m }

/-- 60_exceptions.md section 5 and 45_timer_key.md section 1: no instruction reads `SLOT`, and none reads `ST`. -/
def Obligations.SlotAndSoundTimerAreUnread : Prop :=
  ∀ (i : Instr) (s t : State) (k : Nat) (b : Byte), exec i s = .next t →
    exec i { s with slot := k } = .next { t with slot := k } ∧
    ((∀ x, i ≠ .ldSTVx x) → exec i { s with st := b } = .next { t with st := b }) ∧
    ((∃ x, i = .ldSTVx x) → exec i { s with st := b } = .next t)

/-! ### Invariants -/

/-- 10_state.md section 11: the invariant is kept by every transition, from every state that has it. -/
def Obligations.EveryStepKeepsTheInvariant : Prop :=
  ∀ s t : State, s.Inv → step s = .next t → t.Inv

/-- The reset state has the invariant. -/
def Obligations.ResetStateHasTheInvariant : Prop := State.reset.Inv

/-- 10_state.md section 4: the largest value any rule writes to `PC` is 0x10FE. Every transition keeps the bound. -/
def Obligations.EveryStepKeepsThePcBound : Prop :=
  ∀ s t : State, s.PcBounded → step s = .next t → t.PcBounded

/-- The reset state has the bound on `PC`. -/
def Obligations.ResetStateHasThePcBound : Prop := State.reset.PcBounded

/-! ### Encoding -/

/-- Decoding the bytes of a well-formed instruction gives it back, with the bytes after it. -/
def Obligations.DecodeInvertsEncode : Prop :=
  ∀ (i : Instr) (rest : List Byte), i.wf = true → decodeBytes (encodeBytes i ++ rest) = .ok (i, rest)

/-- Each legal word is the encoding of the instruction it decodes to, which is well-formed: no two words stand for one
term of `Instr`, and no bit is dropped. That is the model's choice (assumption 9): the bits an operation ignores are
kept as operands, where 30_encoding.md section 3 makes, for example, 5xy0 to 5xyF one operation. -/
def Obligations.EncodeInvertsDecode : Prop :=
  ∀ (w : Word) (i : Instr), decodeWord w = .ok i → encode i = w ∧ i.wf = true

/-- 30_encoding.md R71: exactly these words are illegal, and so many of each category: 7 low nibbles for each `x` and
`y`, 254 and 247 low bytes for each `x`. -/
def Obligations.ExactlyTheIllegalWordsAreRefused : Prop :=
  (∀ w : Word, (∃ e, decodeWord w = .error e) ↔
    (catOf w = 0x8#4 ∧ nibbleOf w ∈ [0x8#4, 0x9#4, 0xA#4, 0xB#4, 0xC#4, 0xD#4, 0xF#4]) ∨
    (catOf w = 0xE#4 ∧ imm8Of w ∉ [0x9E#8, 0xA1#8]) ∨
    (catOf w = 0xF#4 ∧ imm8Of w ∉ [0x07#8, 0x0A#8, 0x15#8, 0x18#8, 0x1E#8, 0x29#8, 0x33#8, 0x55#8, 0x65#8])) ∧
  (∀ x y : Reg, ((List.finRange 16).countP fun n =>
    (decodeWord (formatXYN 0x8#4 x y (BitVec.ofFin n))).toOption = none) = 7) ∧
  (∀ x : Reg, ((List.finRange 256).countP fun kk =>
    (decodeWord (formatXKK 0xE#4 x (BitVec.ofFin kk))).toOption = none) = 254) ∧
  (∀ x : Reg, ((List.finRange 256).countP fun kk =>
    (decodeWord (formatXKK 0xF#4 x (BitVec.ofFin kk))).toOption = none) = 247)

/-- A row of the opcode map (30_encoding.md R66). -/
structure OpcodeRow where
  mask : Word
  pattern : Word
  mnemonic : String
  deriving DecidableEq, Repr

/-- The opcode map of 30_encoding.md R66, its 35 rows in order, the mnemonics as spec/opcode_table.json spells them. -/
def opcodeMap : List OpcodeRow :=
  [⟨0xFFFF, 0x00E0, "CLS"⟩, ⟨0xFFFF, 0x00EE, "RET"⟩, ⟨0xF000, 0x0000, "SYS_nnn"⟩,
   ⟨0xF000, 0x1000, "JP_nnn"⟩, ⟨0xF000, 0x2000, "CALL_nnn"⟩] ++
  [⟨0xF000, 0x3000, "SE_Vx__kk"⟩, ⟨0xF000, 0x4000, "SNE_Vx__kk"⟩, ⟨0xF000, 0x5000, "SE_Vx__Vy"⟩,
   ⟨0xF000, 0x6000, "LD_Vx__kk"⟩, ⟨0xF000, 0x7000, "ADD_Vx__kk"⟩] ++
  [⟨0xF00F, 0x8000, "LD_Vx__Vy"⟩, ⟨0xF00F, 0x8001, "OR_Vx__Vy"⟩, ⟨0xF00F, 0x8002, "AND_Vx__Vy"⟩,
   ⟨0xF00F, 0x8003, "XOR_Vx__Vy"⟩, ⟨0xF00F, 0x8004, "ADD_Vx__Vy"⟩, ⟨0xF00F, 0x8005, "SUB_Vx__Vy"⟩,
   ⟨0xF00F, 0x8006, "SHR_Vx"⟩, ⟨0xF00F, 0x8007, "SUBN_Vx__Vy"⟩, ⟨0xF00F, 0x800E, "SHL_Vx"⟩] ++
  [⟨0xF000, 0x9000, "SNE_Vx__Vy"⟩, ⟨0xF000, 0xA000, "LD_I__nnn"⟩, ⟨0xF000, 0xB000, "JP_V0__nnn"⟩,
   ⟨0xF000, 0xC000, "RND_Vx__kk"⟩, ⟨0xF000, 0xD000, "DRW_Vx__Vy__n"⟩, ⟨0xF0FF, 0xE09E, "SKP_Vx"⟩,
   ⟨0xF0FF, 0xE0A1, "SKNP_Vx"⟩] ++
  [⟨0xF0FF, 0xF007, "LD_Vx__DT"⟩, ⟨0xF0FF, 0xF00A, "LD_Vx__K"⟩, ⟨0xF0FF, 0xF015, "LD_DT__Vx"⟩,
   ⟨0xF0FF, 0xF018, "LD_ST__Vx"⟩, ⟨0xF0FF, 0xF01E, "ADD_I__Vx"⟩, ⟨0xF0FF, 0xF029, "LD_F__Vx"⟩,
   ⟨0xF0FF, 0xF033, "LD_B__Vx"⟩, ⟨0xF0FF, 0xF055, "LD__I___Vx"⟩, ⟨0xF0FF, 0xF065, "LD_Vx___I"⟩]

/-- The number, in the order of the opcode map, of the row an instruction belongs to. -/
def opcodeRowOf : Instr → Nat
  | .cls => 0
  | .ret => 1
  | .sys _ => 2
  | .jp _ => 3
  | .call _ => 4
  | .seImm _ _ => 5
  | .sneImm _ _ => 6
  | .seReg _ _ _ => 7
  | .ldImm _ _ => 8
  | .addImm _ _ => 9
  | .ldReg _ _ => 10
  | .orReg _ _ => 11
  | .andReg _ _ => 12
  | .xorReg _ _ => 13
  | .addReg _ _ => 14
  | .subReg _ _ => 15
  | .shr _ _ => 16
  | .subnReg _ _ => 17
  | .shl _ _ => 18
  | .sneReg _ _ _ => 19
  | .ldI _ => 20
  | .jpV0 _ => 21
  | .rnd _ _ => 22
  | .drw _ _ _ => 23
  | .skp _ => 24
  | .sknp _ => 25
  | .ldVxDT _ => 26
  | .ldVxK _ => 27
  | .ldDTVx _ => 28
  | .ldSTVx _ => 29
  | .addI _ => 30
  | .ldF _ => 31
  | .ldB _ => 32
  | .ldMemVx _ => 33
  | .ldVxMem _ => 34

/-- 30_encoding.md, the opcode map: the decoder, written from R64's dispatch, agrees with the mask-and-match table: a
word that decodes to an instruction matches that instruction's row, an illegal word matches none, and no two rows
overlap but CLS and SYS, and RET and SYS (the priority note). -/
def Obligations.DecoderAgreesWithTheOpcodeMap : Prop :=
  (∀ (w : Word) (i : Instr), decodeWord w = .ok i →
    ∃ h : opcodeRowOf i < opcodeMap.length, w &&& opcodeMap[opcodeRowOf i].mask = opcodeMap[opcodeRowOf i].pattern) ∧
  (∀ (w : Word) (e : DecodeError), decodeWord w = .error e → ∀ r ∈ opcodeMap, w &&& r.mask ≠ r.pattern) ∧
  ∀ (w : Word) (j k : Nat) (hj : j < opcodeMap.length) (hk : k < opcodeMap.length),
    j < k → w &&& opcodeMap[j].mask = opcodeMap[j].pattern → w &&& opcodeMap[k].mask = opcodeMap[k].pattern →
    k = 2

/-- Words written out from the spec's encodings decode to the instructions they stand for, one of each family. -/
def Obligations.WordsOfEachFamilyDecode : Prop :=
  decodeWord 0x0123#16 = .ok (.sys 0x123) ∧ decodeWord 0x2ABC#16 = .ok (.call 0xABC) ∧
  decodeWord 0x332A#16 = .ok (.seImm 3 0x2A) ∧ decodeWord 0x6A7F#16 = .ok (.ldImm 0xA 0x7F) ∧
  decodeWord 0x8125#16 = .ok (.subReg 1 2) ∧ decodeWord 0xF329#16 = .ok (.ldF 3) ∧
  decodeWord 0xF155#16 = .ok (.ldMemVx 1) ∧ decodeWord 0xE19E#16 = .ok (.skp 1) ∧
  decodeWord 0xF507#16 = .ok (.ldVxDT 5) ∧ decodeWord 0xD125#16 = .ok (.drw 1 2 0x5)
end

