-- ==== Sys2Proof/Laws/Decode.lean ====
section
/-! SUPPORT. The fields of a word put together from fields, format by format (spec 30_encoding.md R61, R62). -/

namespace Sys2Proof

variable (c n : BitVec 4) (nnn : BitVec 12) (x y : Reg) (kk : Byte)

@[simp] theorem regBits_toFin : (regBits x).toFin = x := rfl

@[simp] theorem regBits_ofFin (b : BitVec 4) : regBits (BitVec.toFin b) = b := rfl

@[simp] theorem catOf_formatNNN : catOf (formatNNN c nnn) = c := by
  unfold catOf formatNNN; grind

@[simp] theorem addr12Of_formatNNN : addr12Of (formatNNN c nnn) = nnn := by
  unfold addr12Of formatNNN; grind

@[simp] theorem catOf_formatXKK : catOf (formatXKK c x kk) = c := by
  unfold catOf formatXKK; grind

@[simp] theorem regXOf_formatXKK : regXOf (formatXKK c x kk) = x := by
  have : (formatXKK c x kk).extractLsb' 8 4 = regBits x := by unfold formatXKK; grind
  rw [regXOf, this, regBits_toFin]

@[simp] theorem imm8Of_formatXKK : imm8Of (formatXKK c x kk) = kk := by
  unfold imm8Of formatXKK; grind

@[simp] theorem catOf_formatXSS : catOf (formatXSS c x kk) = c := catOf_formatXKK c x kk

@[simp] theorem regXOf_formatXSS : regXOf (formatXSS c x kk) = x := regXOf_formatXKK c x kk

@[simp] theorem imm8Of_formatXSS : imm8Of (formatXSS c x kk) = kk := imm8Of_formatXKK c x kk

@[simp] theorem catOf_formatXYN : catOf (formatXYN c x y n) = c := by
  unfold catOf formatXYN; grind

@[simp] theorem regXOf_formatXYN : regXOf (formatXYN c x y n) = x := by
  have : (formatXYN c x y n).extractLsb' 8 4 = regBits x := by unfold formatXYN; grind
  rw [regXOf, this, regBits_toFin]

@[simp] theorem regYOf_formatXYN : regYOf (formatXYN c x y n) = y := by
  have : (formatXYN c x y n).extractLsb' 4 4 = regBits y := by unfold formatXYN; grind
  rw [regYOf, this, regBits_toFin]

@[simp] theorem nibbleOf_formatXYN : nibbleOf (formatXYN c x y n) = n := by
  unfold nibbleOf formatXYN; grind

/-- A word is its category and its 12-bit address (30_encoding.md R61: the fields overlap). -/
theorem formatNNN_fields (w : Word) : formatNNN (catOf w) (addr12Of w) = w := by
  unfold formatNNN catOf addr12Of; grind

/-- A word is its category, first register and 8-bit immediate. -/
theorem formatXKK_fields (w : Word) : formatXKK (catOf w) (regXOf w) (imm8Of w) = w := by
  unfold formatXKK catOf regXOf imm8Of; rw [regBits_ofFin]; grind

/-- A word is its category, two registers and low nibble. -/
theorem formatXYN_fields (w : Word) : formatXYN (catOf w) (regXOf w) (regYOf w) (nibbleOf w) = w := by
  unfold formatXYN catOf regXOf regYOf nibbleOf; rw [regBits_ofFin, regBits_ofFin]; grind

/-- The two bytes of a word, put together, are the word (20_memory.md R48). -/
@[simp] theorem wordOfBytes_high_low (w : Word) : wordOfBytes (highByte w) (lowByte w) = w := by
  unfold wordOfBytes highByte lowByte; grind

@[simp] theorem highByte_wordOfBytes (a b : Byte) : highByte (wordOfBytes a b) = a := by
  unfold wordOfBytes highByte; grind

@[simp] theorem lowByte_wordOfBytes (a b : Byte) : lowByte (wordOfBytes a b) = b := by
  unfold wordOfBytes lowByte; grind

end Sys2Proof
end

