-- ==== Sys2Proof/Laws/Memory.lean ====
section
/-! SUPPORT. The laws of the memory array: a read after a write, and that every memory operation keeps the canonical
form (spec 20_memory.md R44 to R46, R52). -/

namespace Sys2Proof.Machine

/-- A cell list for one address, read at any address it does not hold, leaves the read to the rest. -/
theorem Memory.read_cell_append (m : Memory) (a b : Nat) (v : Byte) (hb : b = a → v = unlisted a → m.read a = unlisted a) :
    (Memory.cell a v ++ m).read b = if b = a then v else m.read b := by
  unfold Memory.cell
  by_cases hv : v = unlisted a
  · by_cases h : b = a
    · subst h; simp [hv, hb rfl hv]
    · simp [hv, h]
  · simp [hv, Memory.read]

/-- An address below every cell of a memory is unlisted. -/
theorem Memory.read_of_lt (m : Memory) (a : Nat) (h : ∀ p ∈ m, a < p.1) : m.read a = unlisted a := by
  induction m with
  | nil => rfl
  | cons p m ih =>
    have hp := h p (by simp)
    simp [Memory.read, Nat.ne_of_lt hp, ih fun q hq => h q (by simp [hq])]

theorem Memory.wf_tail {p : Host.Cell} {m : Memory} (h : Memory.wf (p :: m)) : Memory.wf m :=
  ⟨(List.pairwise_cons.mp h.1).2, fun q hq => h.2 q (by simp [hq])⟩

theorem Memory.lt_of_wf {p : Host.Cell} {m : Memory} (h : Memory.wf (p :: m)) : ∀ q ∈ m, p.1 < q.1 :=
  (List.pairwise_cons.mp h.1).1

/-- Read after write: the written address gives the value, every other address is as before. -/
theorem Memory.read_write (m : Memory) (h : m.wf) (a b : Nat) (v : Byte) :
    (m.write a v).read b = if b = a then v else m.read b := by
  induction m with
  | nil =>
    have := Memory.read_cell_append [] a b v (fun _ _ => rfl)
    simpa [Memory.write] using this
  | cons p m ih =>
    obtain ⟨c, u⟩ := p
    have hlt := Memory.lt_of_wf h
    simp only [Memory.write]
    split
    · rename_i hac
      refine Memory.read_cell_append _ a b v fun _ _ => Memory.read_of_lt _ _ fun q hq => ?_
      rcases List.mem_cons.mp hq with rfl | hq
      · exact hac
      · exact Nat.lt_trans hac (hlt q hq)
    · split
      · rename_i hac; subst hac
        rw [Memory.read_cell_append _ a b v fun _ _ => Memory.read_of_lt _ _ hlt]
        by_cases hb : b = a <;> simp [Memory.read, hb]
      · rename_i hac hne
        simp only [Memory.read, ih (Memory.wf_tail h)]
        by_cases hb : b = c
        · subst hb; simp [Ne.symm hne]
        · simp [hb]

theorem Memory.mem_cell {a : Nat} {v : Byte} {p : Host.Cell} (h : p ∈ Memory.cell a v) :
    p = (a, v) ∧ v ≠ unlisted a := by
  unfold Memory.cell at h
  split at h
  · simp at h
  · exact ⟨by simpa using h, by assumption⟩

theorem Memory.mem_write {m : Memory} {a : Nat} {v : Byte} {p : Host.Cell} (h : p ∈ m.write a v) :
    (p = (a, v) ∧ v ≠ unlisted a) ∨ p ∈ m := by
  induction m with
  | nil => exact .inl (Memory.mem_cell h)
  | cons q m ih =>
    obtain ⟨c, u⟩ := q
    simp only [Memory.write] at h
    split at h
    · rcases List.mem_append.mp h with h | h
      · exact .inl (Memory.mem_cell h)
      · exact .inr h
    · split at h
      · rcases List.mem_append.mp h with h | h
        · exact .inl (Memory.mem_cell h)
        · exact .inr (by simp [h])
      · rcases List.mem_cons.mp h with rfl | h
        · exact .inr (by simp)
        · rcases ih h with h | h
          · exact .inl h
          · exact .inr (by simp [h])

theorem Memory.pairwise_cell (a : Nat) (v : Byte) : (Memory.cell a v).Pairwise (fun p q => p.1 < q.1) := by
  unfold Memory.cell; split <;> simp

/-- A write keeps the canonical form. -/
theorem Memory.write_wf {m : Memory} (h : m.wf) {a : Nat} (ha : a < memSize) (v : Byte) : (m.write a v).wf := by
  refine ⟨?_, fun p hp => ?_⟩
  · induction m with
    | nil => exact Memory.pairwise_cell a v
    | cons q m ih =>
      obtain ⟨c, u⟩ := q
      have hlt := Memory.lt_of_wf h
      have hm := (Memory.wf_tail h).1
      simp only [Memory.write]
      split
      · rename_i hac
        refine List.pairwise_append.mpr ⟨Memory.pairwise_cell a v, h.1, fun p hp q hq => ?_⟩
        obtain ⟨rfl, -⟩ := Memory.mem_cell hp
        rcases List.mem_cons.mp hq with rfl | hq
        · exact hac
        · exact Nat.lt_trans hac (hlt q hq)
      · split
        · rename_i hac; subst hac
          refine List.pairwise_append.mpr ⟨Memory.pairwise_cell _ v, hm, fun p hp q hq => ?_⟩
          obtain ⟨rfl, -⟩ := Memory.mem_cell hp
          exact hlt q hq
        · refine List.pairwise_cons.mpr ⟨fun p hp => ?_, ih (Memory.wf_tail h)⟩
          rcases Memory.mem_write hp with ⟨rfl, -⟩ | hp
          · simp only; omega
          · exact hlt p hp
  · rcases Memory.mem_write hp with ⟨rfl, hv⟩ | hp
    · exact ⟨ha, hv⟩
    · exact h.2 p hp

theorem Memory.writeBytes_wf {m : Memory} (h : m.wf) {a : Nat} {bs : List Byte} (ha : a + bs.length ≤ memSize) :
    (m.writeBytes a bs).wf := by
  induction bs generalizing m a with
  | nil => exact h
  | cons b bs ih =>
    simp only [List.length_cons] at ha
    exact ih (Memory.write_wf h (by omega) b) (by omega)

/-- Read after a store of bytes at ascending addresses, all of them below 4096. -/
theorem Memory.read_writeBytes {m : Memory} (h : m.wf) {a : Nat} {bs : List Byte} (ha : a + bs.length ≤ memSize)
    (b : Nat) :
    (m.writeBytes a bs).read b = if a ≤ b ∧ b < a + bs.length then bs.getD (b - a) 0 else m.read b := by
  induction bs generalizing m a with
  | nil => simp [Memory.writeBytes]
  | cons v bs ih =>
    simp only [List.length_cons] at ha
    rw [Memory.writeBytes, ih (Memory.write_wf h (by omega) v) (by omega), Memory.read_write m h]
    by_cases hb : b = a
    · subst hb; simp
    · by_cases hr : a ≤ b ∧ b < a + (bs.length + 1)
      · have h1 : a + 1 ≤ b ∧ b < a + 1 + bs.length := by omega
        obtain ⟨k, rfl⟩ : ∃ k, b = a + 1 + k := ⟨b - (a + 1), by omega⟩
        have e : a + 1 + k - a = k + 1 := by omega
        simp [h1, e, hr]
      · have h1 : ¬ (a + 1 ≤ b ∧ b < a + 1 + bs.length) := by omega
        rw [if_neg h1, if_neg hb, List.length_cons, if_neg hr]

@[simp] theorem Memory.length_readBytes (m : Memory) (a n : Nat) : (m.readBytes a n).length = n := by
  induction n generalizing a with
  | zero => rfl
  | succ n ih => simp [Memory.readBytes, ih]

theorem Memory.getElem_readBytes (m : Memory) (a n k : Nat) (hk : k < (m.readBytes a n).length) :
    (m.readBytes a n)[k] = m.read (a + k) := by
  induction n generalizing a k with
  | zero => simp [Memory.readBytes] at hk
  | succ n ih =>
    cases k with
    | zero => simp [Memory.readBytes]
    | succ k =>
      simp only [Memory.readBytes, List.getElem_cons_succ]
      rw [ih, Nat.add_assoc, Nat.add_comm 1 k]

theorem inGlyphTable_eq_true {a : Nat} : inGlyphTable a = true ↔ 0x050 ≤ a ∧ a < 0x0A0 := by
  unfold inGlyphTable
  rw [Bool.and_eq_true, decide_eq_true_eq, decide_eq_true_eq]
  rfl

theorem inGlyphTable_eq_false {a : Nat} : inGlyphTable a = false ↔ a < 0x050 ∨ 0x0A0 ≤ a := by
  rw [← Bool.not_eq_true, inGlyphTable_eq_true]
  omega

/-- The glyph table is what its addresses read as where memory lists none of them (20_memory.md R42). -/
theorem unlisted_glyph : ∀ k < 80, unlisted (glyphBase + k) = glyphs.getD k 0x00 := by decide

/-- A memory that lists no glyph address has the glyph table. -/
theorem Memory.glyphsIntact_of_unlisted {m : Memory} (h : ∀ p ∈ m, inGlyphTable p.1 = false) : m.glyphsIntact := by
  intro k hk
  rw [← unlisted_glyph k hk]
  induction m with
  | nil => rfl
  | cons p m ih =>
    have hp := inGlyphTable_eq_false.mp (h p (by simp))
    have hne : glyphBase + k ≠ p.1 := by simp only [glyphBase]; omega
    simp only [Memory.read, if_neg hne]
    exact ih fun q hq => h q (by simp [hq])

/-- `MEM_FILL` is used whole: a legal one lists no glyph address. -/
theorem resetMemory_eq {cfg : Config} (h : cfg.wf) : resetMemory cfg = cfg.memFill :=
  List.filter_eq_self.mpr fun p hp => by simp [h.2.2.2 p hp]

/-- The memory of reset before any image byte is in canonical form. -/
theorem resetMemory_wf {cfg : Config} (h : cfg.wf) : (resetMemory cfg).wf :=
  ⟨h.2.2.1.1.filter _, fun p hp => h.2.2.1.2 p (List.mem_filter.mp hp).1⟩

/-- Reset memory lists nothing, and that is in canonical form. -/
theorem reset_mem_wf : State.reset.mem.wf := by decide

end Sys2Proof.Machine
end

