-- ==== Sys2Proof/Laws/State.lean ====
section
/-! SUPPORT. What every update of State does to every field: one lemma per field per update, true by definition, so
that no later proof unfolds a record update. Reads of a register after a write to one follow at the end. -/

namespace Sys2Proof.Machine

variable (s : State)

/-! ### `State.setReg` -/
@[simp] theorem State.setReg_v (x : Reg) (b : Byte) : (s.setReg x b).v = s.v.set x b := rfl
@[simp] theorem State.setReg_i (x : Reg) (b : Byte) : (s.setReg x b).i = s.i := rfl
@[simp] theorem State.setReg_pc (x : Reg) (b : Byte) : (s.setReg x b).pc = s.pc := rfl
@[simp] theorem State.setReg_sp (x : Reg) (b : Byte) : (s.setReg x b).sp = s.sp := rfl
@[simp] theorem State.setReg_stack (x : Reg) (b : Byte) : (s.setReg x b).stack = s.stack := rfl
@[simp] theorem State.setReg_dt (x : Reg) (b : Byte) : (s.setReg x b).dt = s.dt := rfl
@[simp] theorem State.setReg_st (x : Reg) (b : Byte) : (s.setReg x b).st = s.st := rfl
@[simp] theorem State.setReg_fb (x : Reg) (b : Byte) : (s.setReg x b).fb = s.fb := rfl
@[simp] theorem State.setReg_mem (x : Reg) (b : Byte) : (s.setReg x b).mem = s.mem := rfl
@[simp] theorem State.setReg_run (x : Reg) (b : Byte) : (s.setReg x b).run = s.run := rfl
@[simp] theorem State.setReg_fault (x : Reg) (b : Byte) : (s.setReg x b).fault = s.fault := rfl
@[simp] theorem State.setReg_slot (x : Reg) (b : Byte) : (s.setReg x b).slot = s.slot := rfl
@[simp] theorem State.setReg_cfg (x : Reg) (b : Byte) : (s.setReg x b).cfg = s.cfg := rfl
@[simp] theorem State.setReg_inputs (x : Reg) (b : Byte) : (s.setReg x b).inputs = s.inputs := rfl
@[simp] theorem State.setReg_taken (x : Reg) (b : Byte) : (s.setReg x b).taken = s.taken := rfl

/-! ### `State.setI` -/
@[simp] theorem State.setI_v (a : Word) : (s.setI a).v = s.v := rfl
@[simp] theorem State.setI_i (a : Word) : (s.setI a).i = a := rfl
@[simp] theorem State.setI_pc (a : Word) : (s.setI a).pc = s.pc := rfl
@[simp] theorem State.setI_sp (a : Word) : (s.setI a).sp = s.sp := rfl
@[simp] theorem State.setI_stack (a : Word) : (s.setI a).stack = s.stack := rfl
@[simp] theorem State.setI_dt (a : Word) : (s.setI a).dt = s.dt := rfl
@[simp] theorem State.setI_st (a : Word) : (s.setI a).st = s.st := rfl
@[simp] theorem State.setI_fb (a : Word) : (s.setI a).fb = s.fb := rfl
@[simp] theorem State.setI_mem (a : Word) : (s.setI a).mem = s.mem := rfl
@[simp] theorem State.setI_run (a : Word) : (s.setI a).run = s.run := rfl
@[simp] theorem State.setI_fault (a : Word) : (s.setI a).fault = s.fault := rfl
@[simp] theorem State.setI_slot (a : Word) : (s.setI a).slot = s.slot := rfl
@[simp] theorem State.setI_cfg (a : Word) : (s.setI a).cfg = s.cfg := rfl
@[simp] theorem State.setI_inputs (a : Word) : (s.setI a).inputs = s.inputs := rfl
@[simp] theorem State.setI_taken (a : Word) : (s.setI a).taken = s.taken := rfl

/-! ### `State.goto` -/
@[simp] theorem State.goto_v (a : Word) : (s.goto a).v = s.v := rfl
@[simp] theorem State.goto_i (a : Word) : (s.goto a).i = s.i := rfl
@[simp] theorem State.goto_pc (a : Word) : (s.goto a).pc = a := rfl
@[simp] theorem State.goto_sp (a : Word) : (s.goto a).sp = s.sp := rfl
@[simp] theorem State.goto_stack (a : Word) : (s.goto a).stack = s.stack := rfl
@[simp] theorem State.goto_dt (a : Word) : (s.goto a).dt = s.dt := rfl
@[simp] theorem State.goto_st (a : Word) : (s.goto a).st = s.st := rfl
@[simp] theorem State.goto_fb (a : Word) : (s.goto a).fb = s.fb := rfl
@[simp] theorem State.goto_mem (a : Word) : (s.goto a).mem = s.mem := rfl
@[simp] theorem State.goto_run (a : Word) : (s.goto a).run = s.run := rfl
@[simp] theorem State.goto_fault (a : Word) : (s.goto a).fault = s.fault := rfl
@[simp] theorem State.goto_slot (a : Word) : (s.goto a).slot = s.slot := rfl
@[simp] theorem State.goto_cfg (a : Word) : (s.goto a).cfg = s.cfg := rfl
@[simp] theorem State.goto_inputs (a : Word) : (s.goto a).inputs = s.inputs := rfl
@[simp] theorem State.goto_taken (a : Word) : (s.goto a).taken = s.taken := rfl

/-! ### `State.advance` -/
@[simp] theorem State.advance_v : s.advance.v = s.v := rfl
@[simp] theorem State.advance_i : s.advance.i = s.i := rfl
@[simp] theorem State.advance_pc : s.advance.pc = s.pc + 2 := rfl
@[simp] theorem State.advance_sp : s.advance.sp = s.sp := rfl
@[simp] theorem State.advance_stack : s.advance.stack = s.stack := rfl
@[simp] theorem State.advance_dt : s.advance.dt = s.dt := rfl
@[simp] theorem State.advance_st : s.advance.st = s.st := rfl
@[simp] theorem State.advance_fb : s.advance.fb = s.fb := rfl
@[simp] theorem State.advance_mem : s.advance.mem = s.mem := rfl
@[simp] theorem State.advance_run : s.advance.run = s.run := rfl
@[simp] theorem State.advance_fault : s.advance.fault = s.fault := rfl
@[simp] theorem State.advance_slot : s.advance.slot = s.slot := rfl
@[simp] theorem State.advance_cfg : s.advance.cfg = s.cfg := rfl
@[simp] theorem State.advance_inputs : s.advance.inputs = s.inputs := rfl
@[simp] theorem State.advance_taken : s.advance.taken = s.taken := rfl

/-! ### `State.skipIf` -/
@[simp] theorem State.skipIf_v (c : Bool) : (s.skipIf c).v = s.v := rfl
@[simp] theorem State.skipIf_i (c : Bool) : (s.skipIf c).i = s.i := rfl
@[simp] theorem State.skipIf_pc (c : Bool) : (s.skipIf c).pc = if c then s.pc + 4 else s.pc + 2 := rfl
@[simp] theorem State.skipIf_sp (c : Bool) : (s.skipIf c).sp = s.sp := rfl
@[simp] theorem State.skipIf_stack (c : Bool) : (s.skipIf c).stack = s.stack := rfl
@[simp] theorem State.skipIf_dt (c : Bool) : (s.skipIf c).dt = s.dt := rfl
@[simp] theorem State.skipIf_st (c : Bool) : (s.skipIf c).st = s.st := rfl
@[simp] theorem State.skipIf_fb (c : Bool) : (s.skipIf c).fb = s.fb := rfl
@[simp] theorem State.skipIf_mem (c : Bool) : (s.skipIf c).mem = s.mem := rfl
@[simp] theorem State.skipIf_run (c : Bool) : (s.skipIf c).run = s.run := rfl
@[simp] theorem State.skipIf_fault (c : Bool) : (s.skipIf c).fault = s.fault := rfl
@[simp] theorem State.skipIf_slot (c : Bool) : (s.skipIf c).slot = s.slot := rfl
@[simp] theorem State.skipIf_cfg (c : Bool) : (s.skipIf c).cfg = s.cfg := rfl
@[simp] theorem State.skipIf_inputs (c : Bool) : (s.skipIf c).inputs = s.inputs := rfl
@[simp] theorem State.skipIf_taken (c : Bool) : (s.skipIf c).taken = s.taken := rfl

/-! ### `State.raise` -/
@[simp] theorem State.raise_v (c : FaultCause) (w : Option Word) (n : Option Nat) : (s.raise c w n).v = s.v := rfl
@[simp] theorem State.raise_i (c : FaultCause) (w : Option Word) (n : Option Nat) : (s.raise c w n).i = s.i := rfl
@[simp] theorem State.raise_pc (c : FaultCause) (w : Option Word) (n : Option Nat) : (s.raise c w n).pc = s.pc := rfl
@[simp] theorem State.raise_sp (c : FaultCause) (w : Option Word) (n : Option Nat) : (s.raise c w n).sp = s.sp := rfl
@[simp] theorem State.raise_stack (c : FaultCause) (w : Option Word) (n : Option Nat) : (s.raise c w n).stack = s.stack := rfl
@[simp] theorem State.raise_dt (c : FaultCause) (w : Option Word) (n : Option Nat) : (s.raise c w n).dt = s.dt := rfl
@[simp] theorem State.raise_st (c : FaultCause) (w : Option Word) (n : Option Nat) : (s.raise c w n).st = s.st := rfl
@[simp] theorem State.raise_fb (c : FaultCause) (w : Option Word) (n : Option Nat) : (s.raise c w n).fb = s.fb := rfl
@[simp] theorem State.raise_mem (c : FaultCause) (w : Option Word) (n : Option Nat) : (s.raise c w n).mem = s.mem := rfl
@[simp] theorem State.raise_run (c : FaultCause) (w : Option Word) (n : Option Nat) : (s.raise c w n).run = .halted := rfl
@[simp] theorem State.raise_fault (c : FaultCause) (w : Option Word) (n : Option Nat) : (s.raise c w n).fault = some { cause := c, pc := s.pc, instr := w, info := n } := rfl
@[simp] theorem State.raise_slot (c : FaultCause) (w : Option Word) (n : Option Nat) : (s.raise c w n).slot = s.slot := rfl
@[simp] theorem State.raise_cfg (c : FaultCause) (w : Option Word) (n : Option Nat) : (s.raise c w n).cfg = s.cfg := rfl
@[simp] theorem State.raise_inputs (c : FaultCause) (w : Option Word) (n : Option Nat) : (s.raise c w n).inputs = s.inputs := rfl
@[simp] theorem State.raise_taken (c : FaultCause) (w : Option Word) (n : Option Nat) : (s.raise c w n).taken = s.taken := rfl

/-! ### `State.storeBytes` -/
@[simp] theorem State.storeBytes_v (bs : List Byte) : (s.storeBytes bs).v = s.v := rfl
@[simp] theorem State.storeBytes_i (bs : List Byte) : (s.storeBytes bs).i = s.i := rfl
@[simp] theorem State.storeBytes_pc (bs : List Byte) : (s.storeBytes bs).pc = s.pc := rfl
@[simp] theorem State.storeBytes_sp (bs : List Byte) : (s.storeBytes bs).sp = s.sp := rfl
@[simp] theorem State.storeBytes_stack (bs : List Byte) : (s.storeBytes bs).stack = s.stack := rfl
@[simp] theorem State.storeBytes_dt (bs : List Byte) : (s.storeBytes bs).dt = s.dt := rfl
@[simp] theorem State.storeBytes_st (bs : List Byte) : (s.storeBytes bs).st = s.st := rfl
@[simp] theorem State.storeBytes_fb (bs : List Byte) : (s.storeBytes bs).fb = s.fb := rfl
@[simp] theorem State.storeBytes_mem (bs : List Byte) : (s.storeBytes bs).mem = s.mem.writeBytes s.i.toNat bs := rfl
@[simp] theorem State.storeBytes_run (bs : List Byte) : (s.storeBytes bs).run = s.run := rfl
@[simp] theorem State.storeBytes_fault (bs : List Byte) : (s.storeBytes bs).fault = s.fault := rfl
@[simp] theorem State.storeBytes_slot (bs : List Byte) : (s.storeBytes bs).slot = s.slot := rfl
@[simp] theorem State.storeBytes_cfg (bs : List Byte) : (s.storeBytes bs).cfg = s.cfg := rfl
@[simp] theorem State.storeBytes_inputs (bs : List Byte) : (s.storeBytes bs).inputs = s.inputs := rfl
@[simp] theorem State.storeBytes_taken (bs : List Byte) : (s.storeBytes bs).taken = s.taken := rfl

/-! ### `State.setFb` -/
@[simp] theorem State.setFb_v (f : Framebuffer) : (s.setFb f).v = s.v := rfl
@[simp] theorem State.setFb_i (f : Framebuffer) : (s.setFb f).i = s.i := rfl
@[simp] theorem State.setFb_pc (f : Framebuffer) : (s.setFb f).pc = s.pc := rfl
@[simp] theorem State.setFb_sp (f : Framebuffer) : (s.setFb f).sp = s.sp := rfl
@[simp] theorem State.setFb_stack (f : Framebuffer) : (s.setFb f).stack = s.stack := rfl
@[simp] theorem State.setFb_dt (f : Framebuffer) : (s.setFb f).dt = s.dt := rfl
@[simp] theorem State.setFb_st (f : Framebuffer) : (s.setFb f).st = s.st := rfl
@[simp] theorem State.setFb_fb (f : Framebuffer) : (s.setFb f).fb = f := rfl
@[simp] theorem State.setFb_mem (f : Framebuffer) : (s.setFb f).mem = s.mem := rfl
@[simp] theorem State.setFb_run (f : Framebuffer) : (s.setFb f).run = s.run := rfl
@[simp] theorem State.setFb_fault (f : Framebuffer) : (s.setFb f).fault = s.fault := rfl
@[simp] theorem State.setFb_slot (f : Framebuffer) : (s.setFb f).slot = s.slot := rfl
@[simp] theorem State.setFb_cfg (f : Framebuffer) : (s.setFb f).cfg = s.cfg := rfl
@[simp] theorem State.setFb_inputs (f : Framebuffer) : (s.setFb f).inputs = s.inputs := rfl
@[simp] theorem State.setFb_taken (f : Framebuffer) : (s.setFb f).taken = s.taken := rfl

/-! ### `State.setDt` -/
@[simp] theorem State.setDt_v (b : Byte) : (s.setDt b).v = s.v := rfl
@[simp] theorem State.setDt_i (b : Byte) : (s.setDt b).i = s.i := rfl
@[simp] theorem State.setDt_pc (b : Byte) : (s.setDt b).pc = s.pc := rfl
@[simp] theorem State.setDt_sp (b : Byte) : (s.setDt b).sp = s.sp := rfl
@[simp] theorem State.setDt_stack (b : Byte) : (s.setDt b).stack = s.stack := rfl
@[simp] theorem State.setDt_dt (b : Byte) : (s.setDt b).dt = b := rfl
@[simp] theorem State.setDt_st (b : Byte) : (s.setDt b).st = s.st := rfl
@[simp] theorem State.setDt_fb (b : Byte) : (s.setDt b).fb = s.fb := rfl
@[simp] theorem State.setDt_mem (b : Byte) : (s.setDt b).mem = s.mem := rfl
@[simp] theorem State.setDt_run (b : Byte) : (s.setDt b).run = s.run := rfl
@[simp] theorem State.setDt_fault (b : Byte) : (s.setDt b).fault = s.fault := rfl
@[simp] theorem State.setDt_slot (b : Byte) : (s.setDt b).slot = s.slot := rfl
@[simp] theorem State.setDt_cfg (b : Byte) : (s.setDt b).cfg = s.cfg := rfl
@[simp] theorem State.setDt_inputs (b : Byte) : (s.setDt b).inputs = s.inputs := rfl
@[simp] theorem State.setDt_taken (b : Byte) : (s.setDt b).taken = s.taken := rfl

/-! ### `State.setSt` -/
@[simp] theorem State.setSt_v (b : Byte) : (s.setSt b).v = s.v := rfl
@[simp] theorem State.setSt_i (b : Byte) : (s.setSt b).i = s.i := rfl
@[simp] theorem State.setSt_pc (b : Byte) : (s.setSt b).pc = s.pc := rfl
@[simp] theorem State.setSt_sp (b : Byte) : (s.setSt b).sp = s.sp := rfl
@[simp] theorem State.setSt_stack (b : Byte) : (s.setSt b).stack = s.stack := rfl
@[simp] theorem State.setSt_dt (b : Byte) : (s.setSt b).dt = s.dt := rfl
@[simp] theorem State.setSt_st (b : Byte) : (s.setSt b).st = b := rfl
@[simp] theorem State.setSt_fb (b : Byte) : (s.setSt b).fb = s.fb := rfl
@[simp] theorem State.setSt_mem (b : Byte) : (s.setSt b).mem = s.mem := rfl
@[simp] theorem State.setSt_run (b : Byte) : (s.setSt b).run = s.run := rfl
@[simp] theorem State.setSt_fault (b : Byte) : (s.setSt b).fault = s.fault := rfl
@[simp] theorem State.setSt_slot (b : Byte) : (s.setSt b).slot = s.slot := rfl
@[simp] theorem State.setSt_cfg (b : Byte) : (s.setSt b).cfg = s.cfg := rfl
@[simp] theorem State.setSt_inputs (b : Byte) : (s.setSt b).inputs = s.inputs := rfl
@[simp] theorem State.setSt_taken (b : Byte) : (s.setSt b).taken = s.taken := rfl

/-! ### `State.setFlagged` -/
@[simp] theorem State.setFlagged_v (x : Reg) (r : Byte) (f : Bool) : (s.setFlagged x r f).v = (s.v.set x r).set flagReg (flagByte f) := rfl
@[simp] theorem State.setFlagged_i (x : Reg) (r : Byte) (f : Bool) : (s.setFlagged x r f).i = s.i := rfl
@[simp] theorem State.setFlagged_pc (x : Reg) (r : Byte) (f : Bool) : (s.setFlagged x r f).pc = s.pc := rfl
@[simp] theorem State.setFlagged_sp (x : Reg) (r : Byte) (f : Bool) : (s.setFlagged x r f).sp = s.sp := rfl
@[simp] theorem State.setFlagged_stack (x : Reg) (r : Byte) (f : Bool) : (s.setFlagged x r f).stack = s.stack := rfl
@[simp] theorem State.setFlagged_dt (x : Reg) (r : Byte) (f : Bool) : (s.setFlagged x r f).dt = s.dt := rfl
@[simp] theorem State.setFlagged_st (x : Reg) (r : Byte) (f : Bool) : (s.setFlagged x r f).st = s.st := rfl
@[simp] theorem State.setFlagged_fb (x : Reg) (r : Byte) (f : Bool) : (s.setFlagged x r f).fb = s.fb := rfl
@[simp] theorem State.setFlagged_mem (x : Reg) (r : Byte) (f : Bool) : (s.setFlagged x r f).mem = s.mem := rfl
@[simp] theorem State.setFlagged_run (x : Reg) (r : Byte) (f : Bool) : (s.setFlagged x r f).run = s.run := rfl
@[simp] theorem State.setFlagged_fault (x : Reg) (r : Byte) (f : Bool) : (s.setFlagged x r f).fault = s.fault := rfl
@[simp] theorem State.setFlagged_slot (x : Reg) (r : Byte) (f : Bool) : (s.setFlagged x r f).slot = s.slot := rfl
@[simp] theorem State.setFlagged_cfg (x : Reg) (r : Byte) (f : Bool) : (s.setFlagged x r f).cfg = s.cfg := rfl
@[simp] theorem State.setFlagged_inputs (x : Reg) (r : Byte) (f : Bool) : (s.setFlagged x r f).inputs = s.inputs := rfl
@[simp] theorem State.setFlagged_taken (x : Reg) (r : Byte) (f : Bool) : (s.setFlagged x r f).taken = s.taken := rfl

/-! ### `State.loadRegsUpTo` -/
@[simp] theorem State.loadRegsUpTo_v (x : Reg) : (s.loadRegsUpTo x).v = Vector.ofFn fun k => if k ≤ x then s.mem.read (s.ea k.val) else s.reg k := rfl
@[simp] theorem State.loadRegsUpTo_i (x : Reg) : (s.loadRegsUpTo x).i = s.i := rfl
@[simp] theorem State.loadRegsUpTo_pc (x : Reg) : (s.loadRegsUpTo x).pc = s.pc := rfl
@[simp] theorem State.loadRegsUpTo_sp (x : Reg) : (s.loadRegsUpTo x).sp = s.sp := rfl
@[simp] theorem State.loadRegsUpTo_stack (x : Reg) : (s.loadRegsUpTo x).stack = s.stack := rfl
@[simp] theorem State.loadRegsUpTo_dt (x : Reg) : (s.loadRegsUpTo x).dt = s.dt := rfl
@[simp] theorem State.loadRegsUpTo_st (x : Reg) : (s.loadRegsUpTo x).st = s.st := rfl
@[simp] theorem State.loadRegsUpTo_fb (x : Reg) : (s.loadRegsUpTo x).fb = s.fb := rfl
@[simp] theorem State.loadRegsUpTo_mem (x : Reg) : (s.loadRegsUpTo x).mem = s.mem := rfl
@[simp] theorem State.loadRegsUpTo_run (x : Reg) : (s.loadRegsUpTo x).run = s.run := rfl
@[simp] theorem State.loadRegsUpTo_fault (x : Reg) : (s.loadRegsUpTo x).fault = s.fault := rfl
@[simp] theorem State.loadRegsUpTo_slot (x : Reg) : (s.loadRegsUpTo x).slot = s.slot := rfl
@[simp] theorem State.loadRegsUpTo_cfg (x : Reg) : (s.loadRegsUpTo x).cfg = s.cfg := rfl
@[simp] theorem State.loadRegsUpTo_inputs (x : Reg) : (s.loadRegsUpTo x).inputs = s.inputs := rfl
@[simp] theorem State.loadRegsUpTo_taken (x : Reg) : (s.loadRegsUpTo x).taken = s.taken := rfl

/-! ### `State.incIAfterBulk` -/
@[simp] theorem State.incIAfterBulk_v (x : Reg) : (s.incIAfterBulk x).v = s.v := rfl
@[simp] theorem State.incIAfterBulk_i (x : Reg) : (s.incIAfterBulk x).i = if s.cfg.ldstIInc then s.i + BitVec.ofNat 16 (x.val + 1) else s.i := rfl
@[simp] theorem State.incIAfterBulk_pc (x : Reg) : (s.incIAfterBulk x).pc = s.pc := rfl
@[simp] theorem State.incIAfterBulk_sp (x : Reg) : (s.incIAfterBulk x).sp = s.sp := rfl
@[simp] theorem State.incIAfterBulk_stack (x : Reg) : (s.incIAfterBulk x).stack = s.stack := rfl
@[simp] theorem State.incIAfterBulk_dt (x : Reg) : (s.incIAfterBulk x).dt = s.dt := rfl
@[simp] theorem State.incIAfterBulk_st (x : Reg) : (s.incIAfterBulk x).st = s.st := rfl
@[simp] theorem State.incIAfterBulk_fb (x : Reg) : (s.incIAfterBulk x).fb = s.fb := rfl
@[simp] theorem State.incIAfterBulk_mem (x : Reg) : (s.incIAfterBulk x).mem = s.mem := rfl
@[simp] theorem State.incIAfterBulk_run (x : Reg) : (s.incIAfterBulk x).run = s.run := rfl
@[simp] theorem State.incIAfterBulk_fault (x : Reg) : (s.incIAfterBulk x).fault = s.fault := rfl
@[simp] theorem State.incIAfterBulk_slot (x : Reg) : (s.incIAfterBulk x).slot = s.slot := rfl
@[simp] theorem State.incIAfterBulk_cfg (x : Reg) : (s.incIAfterBulk x).cfg = s.cfg := rfl
@[simp] theorem State.incIAfterBulk_inputs (x : Reg) : (s.incIAfterBulk x).inputs = s.inputs := rfl
@[simp] theorem State.incIAfterBulk_taken (x : Reg) : (s.incIAfterBulk x).taken = s.taken := rfl

/-! ### `State.takeInput` -/
@[simp] theorem State.takeInput_v : s.takeInput.v = s.v := rfl
@[simp] theorem State.takeInput_i : s.takeInput.i = s.i := rfl
@[simp] theorem State.takeInput_pc : s.takeInput.pc = s.pc := rfl
@[simp] theorem State.takeInput_sp : s.takeInput.sp = s.sp := rfl
@[simp] theorem State.takeInput_stack : s.takeInput.stack = s.stack := rfl
@[simp] theorem State.takeInput_dt : s.takeInput.dt = s.dt := rfl
@[simp] theorem State.takeInput_st : s.takeInput.st = s.st := rfl
@[simp] theorem State.takeInput_fb : s.takeInput.fb = s.fb := rfl
@[simp] theorem State.takeInput_mem : s.takeInput.mem = s.mem := rfl
@[simp] theorem State.takeInput_run : s.takeInput.run = s.run := rfl
@[simp] theorem State.takeInput_fault : s.takeInput.fault = s.fault := rfl
@[simp] theorem State.takeInput_slot : s.takeInput.slot = s.slot := rfl
@[simp] theorem State.takeInput_cfg : s.takeInput.cfg = s.cfg := rfl
@[simp] theorem State.takeInput_inputs : s.takeInput.inputs = s.inputs.tail := rfl
@[simp] theorem State.takeInput_taken : s.takeInput.taken = s.taken + 1 := rfl

/-! ### `State.endOfFrame` -/
@[simp] theorem State.endOfFrame_v : s.endOfFrame.v = s.v := rfl
@[simp] theorem State.endOfFrame_i : s.endOfFrame.i = s.i := rfl
@[simp] theorem State.endOfFrame_pc : s.endOfFrame.pc = s.pc := rfl
@[simp] theorem State.endOfFrame_sp : s.endOfFrame.sp = s.sp := rfl
@[simp] theorem State.endOfFrame_stack : s.endOfFrame.stack = s.stack := rfl
@[simp] theorem State.endOfFrame_dt : s.endOfFrame.dt = tickTimer s.dt := rfl
@[simp] theorem State.endOfFrame_st : s.endOfFrame.st = tickTimer s.st := rfl
@[simp] theorem State.endOfFrame_fb : s.endOfFrame.fb = s.fb := rfl
@[simp] theorem State.endOfFrame_mem : s.endOfFrame.mem = s.mem := rfl
@[simp] theorem State.endOfFrame_run : s.endOfFrame.run = s.run := rfl
@[simp] theorem State.endOfFrame_fault : s.endOfFrame.fault = s.fault := rfl
@[simp] theorem State.endOfFrame_slot : s.endOfFrame.slot = 0 := rfl
@[simp] theorem State.endOfFrame_cfg : s.endOfFrame.cfg = s.cfg := rfl
@[simp] theorem State.endOfFrame_inputs : s.endOfFrame.inputs = s.inputs := rfl
@[simp] theorem State.endOfFrame_taken : s.endOfFrame.taken = s.taken := rfl

/-! ### Registers read after an update -/

theorem State.reg_setReg (x y : Reg) (b : Byte) : (s.setReg x b).reg y = if y = x then b else s.reg y := by
  simp only [State.reg, State.setReg, Fin.getElem_fin, Vector.getElem_set, Fin.ext_iff, eq_comm]

@[simp] theorem State.reg_setReg_self (x : Reg) (b : Byte) : (s.setReg x b).reg x = b := by
  simp [State.reg_setReg]

theorem State.reg_setReg_of_ne {x y : Reg} (h : y ≠ x) (b : Byte) : (s.setReg x b).reg y = s.reg y := by
  simp [State.reg_setReg, h]

/-- The flag discipline read back: the flag wins in register 15 (43_load_alu.md R112). -/
theorem State.reg_setFlagged (x y : Reg) (r : Byte) (f : Bool) :
    (s.setFlagged x r f).reg y = if y = flagReg then flagByte f else if y = x then r else s.reg y := by
  simp only [State.setFlagged, State.reg_setReg]

theorem State.reg_loadRegsUpTo (x y : Reg) :
    (s.loadRegsUpTo x).reg y = if y ≤ x then s.mem.read (s.i.toNat + y.val) else s.reg y := by
  simp [State.reg, State.loadRegsUpTo, State.ea]

@[simp] theorem State.reg_setI (a : Word) (y : Reg) : (s.setI a).reg y = s.reg y := rfl
@[simp] theorem State.reg_goto (a : Word) (y : Reg) : (s.goto a).reg y = s.reg y := rfl
@[simp] theorem State.reg_advance (y : Reg) : s.advance.reg y = s.reg y := rfl
@[simp] theorem State.reg_skipIf (c : Bool) (y : Reg) : (s.skipIf c).reg y = s.reg y := rfl
@[simp] theorem State.reg_raise (c : FaultCause) (w : Option Word) (n : Option Nat) (y : Reg) : (s.raise c w n).reg y = s.reg y := rfl
@[simp] theorem State.reg_storeBytes (bs : List Byte) (y : Reg) : (s.storeBytes bs).reg y = s.reg y := rfl
@[simp] theorem State.reg_setFb (f : Framebuffer) (y : Reg) : (s.setFb f).reg y = s.reg y := rfl
@[simp] theorem State.reg_setDt (b : Byte) (y : Reg) : (s.setDt b).reg y = s.reg y := rfl
@[simp] theorem State.reg_setSt (b : Byte) (y : Reg) : (s.setSt b).reg y = s.reg y := rfl
@[simp] theorem State.reg_incIAfterBulk (x : Reg) (y : Reg) : (s.incIAfterBulk x).reg y = s.reg y := rfl
@[simp] theorem State.reg_takeInput (y : Reg) : s.takeInput.reg y = s.reg y := rfl
@[simp] theorem State.reg_endOfFrame (y : Reg) : s.endOfFrame.reg y = s.reg y := rfl

end Sys2Proof.Machine
end

