-- ==== Sys2Proof/Laws/Ops.lean ====
section
/-! SUPPORT. What each shared operation can do, said once: access checks, call stack, framebuffer, key queries
(spec 20_memory.md R44 to R47; 10_state.md R19, R21; 60_exceptions.md R192). -/

namespace Sys2Proof.Machine

/-! ### Access checks -/

/-- No check fails exactly when none fails at any of the addresses. -/
theorem firstFault_eq_none {check : Nat → Option FaultCause} {a n : Nat} :
    firstFault check a n = none ↔ ∀ k < n, check (a + k) = none := by
  induction n generalizing a with
  | zero => simp [firstFault]
  | succ n ih =>
    simp only [firstFault]
    cases h : check a with
    | some c => simpa using ⟨0, by simp, by simp [h]⟩
    | none =>
      simp only [ih]
      constructor
      · intro hk k hkn
        cases k with
        | zero => simpa using h
        | succ k => have := hk k (by omega); rwa [Nat.add_assoc, Nat.add_comm 1 k] at this
      · intro hk k hkn
        have := hk (k + 1) (by omega)
        rwa [Nat.add_assoc, Nat.add_comm 1 k]

/-- The failure reported is the first in ascending address order. -/
theorem firstFault_eq_some {check : Nat → Option FaultCause} {a n b : Nat} {c : FaultCause} :
    firstFault check a n = some (c, b) ↔
      ∃ k < n, b = a + k ∧ check b = some c ∧ ∀ j < k, check (a + j) = none := by
  induction n generalizing a with
  | zero => simp [firstFault]
  | succ n ih =>
    simp only [firstFault]
    cases h : check a with
    | some d =>
      constructor
      · intro e
        obtain ⟨rfl, rfl⟩ : d = c ∧ a = b := by simpa using e
        exact ⟨0, by omega, by simp, h, by simp⟩
      · rintro ⟨k, -, rfl, hc, hj⟩
        cases k with
        | zero => simp_all
        | succ k => have := hj 0 (by omega); simp [h] at this
    | none =>
      simp only [ih]
      constructor
      · rintro ⟨k, hk, rfl, hc, hj⟩
        refine ⟨k + 1, by omega, by omega, hc, fun j hjk => ?_⟩
        cases j with
        | zero => simpa using h
        | succ j => have := hj j (by omega); rwa [Nat.add_assoc, Nat.add_comm 1 j] at this
      · rintro ⟨k, hk, rfl, hc, hj⟩
        cases k with
        | zero => simp [h] at hc
        | succ k =>
          refine ⟨k, by omega, by omega, hc, fun j hjk => ?_⟩
          have := hj (j + 1) (by omega)
          rwa [Nat.add_assoc, Nat.add_comm 1 j]

theorem readFault_eq_none {a : Nat} : readFault a = none ↔ a < memSize := by
  unfold readFault; split <;> simp <;> omega

theorem writeFault_eq_none {p : GlyphWritePolicy} {a : Nat} :
    writeFault p a = none ↔ a < memSize ∧ (p = .fault → inGlyphTable a = false) := by
  unfold writeFault
  split
  · simp; omega
  · split
    · rename_i h1 h2; simp [h2]
    · rename_i h1 h2; simp only [true_iff]; exact ⟨by omega, fun hp => by simpa [hp] using h2⟩

/-- A load of `n` bytes from `I` is legal when the last of them lies below 4096. -/
theorem State.loadFault_eq_none {s : State} {n : Nat} :
    s.loadFault n = none ↔ n = 0 ∨ s.i.toNat + n ≤ memSize := by
  simp only [State.loadFault, firstFault_eq_none, readFault_eq_none]
  constructor
  · intro h
    cases n with
    | zero => simp
    | succ n => have := h n (by omega); right; omega
  · rintro (rfl | h) k hk <;> omega

/-- A store of `n` bytes from `I` is legal when every one lies below 4096 and, under `fault`, outside the table. -/
theorem State.storeFault_eq_none {s : State} {n : Nat} :
    s.storeFault n = none ↔
      ∀ k < n, s.i.toNat + k < memSize ∧
        (s.cfg.glyphWritePolicy = .fault → inGlyphTable (s.i.toNat + k) = false) := by
  simp only [State.storeFault, firstFault_eq_none, writeFault_eq_none]

/-! ### Call stack -/

theorem State.push_eq_some {s t : State} {a : Word} (h : s.push a = some t) :
    ∃ hs : s.sp.val < 16, t = { s with stack := s.stack.set s.sp.val a hs,
                                       sp := ⟨s.sp.val + 1, Nat.succ_lt_succ hs⟩ } := by
  unfold State.push at h
  split at h
  · exact ⟨by assumption, by simpa using h.symm⟩
  · simp at h

theorem State.push_eq_none {s : State} {a : Word} : s.push a = none ↔ s.sp.val = 16 := by
  unfold State.push
  have := s.sp.isLt
  split <;> simp <;> omega

theorem State.pop_eq_some {s t : State} {a : Word} (h : s.pop = some (a, t)) :
    ∃ hs : 0 < s.sp.val, a = s.stack[s.sp.val - 1]'(by omega) ∧
      t = { s with sp := ⟨s.sp.val - 1, by omega⟩ } := by
  unfold State.pop at h
  split at h
  · rename_i hs
    obtain ⟨rfl, rfl⟩ : _ ∧ _ := by simpa using h
    exact ⟨hs, rfl, rfl⟩
  · simp at h

theorem State.pop_eq_none {s : State} : s.pop = none ↔ s.sp.val = 0 := by
  unfold State.pop
  split <;> simp <;> omega

/-! ### Framebuffer -/

@[simp] theorem Framebuffer.px_blank (r : Fin 32) (c : Fin 64) : Framebuffer.blank.px r c = false := by
  simp [Framebuffer.blank, Framebuffer.px]

/-- A flip changes one pixel. -/
theorem Framebuffer.px_flip (f : Framebuffer) (r r' : Fin 32) (c c' : Fin 64) :
    (f.flip r c).px r' c' = if r' = r ∧ c' = c then !f.px r c else f.px r' c' := by
  simp only [Framebuffer.px, Framebuffer.flip, Fin.getElem_fin, Vector.getElem_set, Fin.ext_iff]
  by_cases hr : r'.val = r.val
  · by_cases hc : c'.val = c.val
    · simp [hr, hc]
    · simp [hr, hc, Ne.symm hc]
  · simp [hr, Ne.symm hr]

/-- Two framebuffers with the same pixels are the same. -/
theorem Framebuffer.ext_px {f g : Framebuffer} (h : ∀ r c, f.px r c = g.px r c) : f = g := by
  ext r hr c hc
  exact h ⟨r, hr⟩ ⟨c, hc⟩

/-! ### Key queries -/

/-- The key reported is a held key (60_exceptions.md R192). -/
theorem Env.anyKey_mem {e : Env} {k : Key} (h : e.anyKey = some k) : k ∈ e.keys := by
  unfold Env.anyKey at h
  split at h
  · simp_all
  · exact List.mem_of_head? h

theorem Env.anyKey_of_pick {e : Env} (h : e.pick ∈ e.keys) : e.anyKey = some e.pick := by
  simp [Env.anyKey, h]

theorem Env.anyKey_eq_none {e : Env} : e.anyKey = none ↔ e.keys = [] := by
  unfold Env.anyKey
  split
  · rename_i h; simp; rintro h'; simp [h'] at h
  · simp

end Sys2Proof.Machine
end

