-- ==== Sys2Proof/Laws/PerInstr.lean ====
section
/-! SUPPORT. The per-instruction family: the category nibble of every instruction's word (spec 30_encoding.md R64). -/

namespace Sys2Proof.Laws.EncodeCategory

/-- The category of each instruction, W[15:12] (30_encoding.md R64, the dispatch table). -/
def category : Instr → BitVec 4
  | .cls => 0x0#4
  | .ret => 0x0#4
  | .sys _ => 0x0#4
  | .jp _ => 0x1#4
  | .call _ => 0x2#4
  | .seImm _ _ => 0x3#4
  | .sneImm _ _ => 0x4#4
  | .seReg _ _ _ => 0x5#4
  | .ldImm _ _ => 0x6#4
  | .addImm _ _ => 0x7#4
  | .ldReg _ _ => 0x8#4
  | .orReg _ _ => 0x8#4
  | .andReg _ _ => 0x8#4
  | .xorReg _ _ => 0x8#4
  | .addReg _ _ => 0x8#4
  | .subReg _ _ => 0x8#4
  | .shr _ _ => 0x8#4
  | .subnReg _ _ => 0x8#4
  | .shl _ _ => 0x8#4
  | .sneReg _ _ _ => 0x9#4
  | .ldI _ => 0xA#4
  | .jpV0 _ => 0xB#4
  | .rnd _ _ => 0xC#4
  | .drw _ _ _ => 0xD#4
  | .skp _ => 0xE#4
  | .sknp _ => 0xE#4
  | .ldVxDT _ => 0xF#4
  | .ldVxK _ => 0xF#4
  | .ldDTVx _ => 0xF#4
  | .ldSTVx _ => 0xF#4
  | .addI _ => 0xF#4
  | .ldF _ => 0xF#4
  | .ldB _ => 0xF#4
  | .ldMemVx _ => 0xF#4
  | .ldVxMem _ => 0xF#4

/-- The word of an instruction carries the instruction's category. -/
def Statement (i : Instr) : Prop := catOf (encode i) = category i

theorem cls : Statement .cls := by unfold Statement; decide
theorem ret : Statement .ret := by unfold Statement; decide
theorem sys (nnn : BitVec 12) : Statement (.sys nnn) := by simp [Statement, encode, category]
theorem jp (nnn : BitVec 12) : Statement (.jp nnn) := by simp [Statement, encode, category]
theorem call (nnn : BitVec 12) : Statement (.call nnn) := by simp [Statement, encode, category]
theorem seImm (x : Reg) (kk : Byte) : Statement (.seImm x kk) := by simp [Statement, encode, category]
theorem sneImm (x : Reg) (kk : Byte) : Statement (.sneImm x kk) := by simp [Statement, encode, category]
theorem seReg (x y : Reg) (n : BitVec 4) : Statement (.seReg x y n) := by simp [Statement, encode, category]
theorem ldImm (x : Reg) (kk : Byte) : Statement (.ldImm x kk) := by simp [Statement, encode, category]
theorem addImm (x : Reg) (kk : Byte) : Statement (.addImm x kk) := by simp [Statement, encode, category]
theorem ldReg (x y : Reg) : Statement (.ldReg x y) := by simp [Statement, encode, category]
theorem orReg (x y : Reg) : Statement (.orReg x y) := by simp [Statement, encode, category]
theorem andReg (x y : Reg) : Statement (.andReg x y) := by simp [Statement, encode, category]
theorem xorReg (x y : Reg) : Statement (.xorReg x y) := by simp [Statement, encode, category]
theorem addReg (x y : Reg) : Statement (.addReg x y) := by simp [Statement, encode, category]
theorem subReg (x y : Reg) : Statement (.subReg x y) := by simp [Statement, encode, category]
theorem shr (x y : Reg) : Statement (.shr x y) := by simp [Statement, encode, category]
theorem subnReg (x y : Reg) : Statement (.subnReg x y) := by simp [Statement, encode, category]
theorem shl (x y : Reg) : Statement (.shl x y) := by simp [Statement, encode, category]
theorem sneReg (x y : Reg) (n : BitVec 4) : Statement (.sneReg x y n) := by simp [Statement, encode, category]
theorem ldI (nnn : BitVec 12) : Statement (.ldI nnn) := by simp [Statement, encode, category]
theorem jpV0 (nnn : BitVec 12) : Statement (.jpV0 nnn) := by simp [Statement, encode, category]
theorem rnd (x : Reg) (kk : Byte) : Statement (.rnd x kk) := by simp [Statement, encode, category]
theorem drw (x y : Reg) (n : BitVec 4) : Statement (.drw x y n) := by simp [Statement, encode, category]
theorem skp (x : Reg) : Statement (.skp x) := by simp [Statement, encode, category]
theorem sknp (x : Reg) : Statement (.sknp x) := by simp [Statement, encode, category]
theorem ldVxDT (x : Reg) : Statement (.ldVxDT x) := by simp [Statement, encode, category]
theorem ldVxK (x : Reg) : Statement (.ldVxK x) := by simp [Statement, encode, category]
theorem ldDTVx (x : Reg) : Statement (.ldDTVx x) := by simp [Statement, encode, category]
theorem ldSTVx (x : Reg) : Statement (.ldSTVx x) := by simp [Statement, encode, category]
theorem addI (x : Reg) : Statement (.addI x) := by simp [Statement, encode, category]
theorem ldF (x : Reg) : Statement (.ldF x) := by simp [Statement, encode, category]
theorem ldB (x : Reg) : Statement (.ldB x) := by simp [Statement, encode, category]
theorem ldMemVx (x : Reg) : Statement (.ldMemVx x) := by simp [Statement, encode, category]
theorem ldVxMem (x : Reg) : Statement (.ldVxMem x) := by simp [Statement, encode, category]

/-- All of them together. -/
theorem all (i : Instr) : Statement i := by
  cases i
  case cls => exact cls
  case ret => exact ret
  case sys => exact sys ..
  case jp => exact jp ..
  case call => exact call ..
  case seImm => exact seImm ..
  case sneImm => exact sneImm ..
  case seReg => exact seReg ..
  case ldImm => exact ldImm ..
  case addImm => exact addImm ..
  case ldReg => exact ldReg ..
  case orReg => exact orReg ..
  case andReg => exact andReg ..
  case xorReg => exact xorReg ..
  case addReg => exact addReg ..
  case subReg => exact subReg ..
  case shr => exact shr ..
  case subnReg => exact subnReg ..
  case shl => exact shl ..
  case sneReg => exact sneReg ..
  case ldI => exact ldI ..
  case jpV0 => exact jpV0 ..
  case rnd => exact rnd ..
  case drw => exact drw ..
  case skp => exact skp ..
  case sknp => exact sknp ..
  case ldVxDT => exact ldVxDT ..
  case ldVxK => exact ldVxK ..
  case ldDTVx => exact ldDTVx ..
  case ldSTVx => exact ldSTVx ..
  case addI => exact addI ..
  case ldF => exact ldF ..
  case ldB => exact ldB ..
  case ldMemVx => exact ldMemVx ..
  case ldVxMem => exact ldVxMem ..

end Sys2Proof.Laws.EncodeCategory
end

