-- ==== Sys2Proof/Laws/Step.lean ====
section
/-! SUPPORT. What an executed instruction and a step can do, said once, for later proofs to cite in place of unfolding
`exec` and `step` (spec 40_step_cycle.md R80, R83; 60_exceptions.md R175, R184). -/

namespace Sys2Proof.Machine

/-- An executed instruction never touches the slot count, the configuration or the inputs, and it either leaves the
run state and the fault record alone or is a fault entry and nothing else. -/
theorem exec_cases {i : Instr} {s t : State} (h : exec i s = .next t) :
    (t.run = s.run ∧ t.fault = s.fault ∧ t.slot = s.slot ∧ t.cfg = s.cfg ∧ t.inputs = s.inputs ∧ t.taken = s.taken) ∨
      ∃ c w n, t = s.raise c w n := by
  cases i <;>
    simp only [exec, execCls, execRet, execSys, execJp, execCall, execSeImm, execSneImm, execSeReg, execLdImm, execAddImm,
      execLdReg, execOrReg, execAndReg, execXorReg, execAddReg, execSubReg, execShr, execSubnReg, execShl, execSneReg,
      execLdI, execJpV0, execRnd, execDrw, execSkp, execSknp, execLdVxDT, execLdVxK, execLdDTVx, execLdSTVx, execAddI,
      execLdF, execLdB, execLdMemVx, execLdVxMem] at h <;>
    (repeat' split at h) <;>
    cases h <;>
    first
      | exact .inr ⟨_, _, _, rfl⟩
      | (refine .inl ?_; simp; done)
      | skip
  · obtain ⟨_, _, rfl⟩ := State.pop_eq_some ‹_›
    exact .inl (by simp)
  · obtain ⟨_, rfl⟩ := State.push_eq_some ‹_›
    exact .inl (by simp)

/-- What an executed instruction may do to memory: nothing, or a store of bytes at `I` that passed every check. -/
theorem exec_mem_cases {i : Instr} {s t : State} (h : exec i s = .next t) :
    t.mem = s.mem ∨ ∃ bs, s.storeFault bs.length = none ∧ t.mem = s.mem.writeBytes s.i.toNat bs := by
  cases i <;>
    simp only [exec, execCls, execRet, execSys, execJp, execCall, execSeImm, execSneImm, execSeReg, execLdImm, execAddImm,
      execLdReg, execOrReg, execAndReg, execXorReg, execAddReg, execSubReg, execShr, execSubnReg, execShl, execSneReg,
      execLdI, execJpV0, execRnd, execDrw, execSkp, execSknp, execLdVxDT, execLdVxK, execLdDTVx, execLdSTVx, execAddI,
      execLdF, execLdB, execLdMemVx, execLdVxMem] at h <;>
    (repeat' split at h) <;>
    cases h <;>
    first
      | exact .inl rfl
      | skip
  · obtain ⟨_, _, rfl⟩ := State.pop_eq_some ‹_›
    exact .inl rfl
  · obtain ⟨_, rfl⟩ := State.push_eq_some ‹_›
    exact .inl rfl
  · rename_i x _ hs
    exact .inr ⟨bcdDigits (s.reg x), by simpa [bcdDigits] using hs, rfl⟩
  · rename_i x _ hs
    refine .inr ⟨s.regsUpTo x, ?_, rfl⟩
    rwa [show (s.regsUpTo x).length = x.val + 1 by simp [State.regsUpTo]]

/-- No meaning stops the model: an executed instruction always answers a next state. -/
theorem exec_answers (i : Instr) (s : State) : ∃ t, exec i s = .next t := by
  cases i <;>
    simp only [exec, execCls, execRet, execSys, execJp, execCall, execSeImm, execSneImm, execSeReg, execLdImm, execAddImm,
      execLdReg, execOrReg, execAndReg, execXorReg, execAddReg, execSubReg, execShr, execSubnReg, execShl, execSneReg,
      execLdI, execJpV0, execRnd, execDrw, execSkp, execSknp, execLdVxDT, execLdVxK, execLdDTVx, execLdSTVx, execAddI,
      execLdF, execLdB, execLdMemVx, execLdVxMem] <;>
    (repeat' split) <;>
    exact ⟨_, rfl⟩

/-- The step of a state that takes one answers a next state: a fault entry or an executed instruction. -/
theorem stepOnce_cases {s t : State} (h : stepOnce s = .next t) :
    (∃ c w n, t = s.raise c w n) ∨ ∃ w i, s.fetch = some w ∧ decodeWord w = .ok i ∧ exec i s = .next t := by
  unfold stepOnce at h
  split at h
  · cases h; exact .inl ⟨_, _, _, rfl⟩
  · split at h
    · cases h; exact .inl ⟨_, _, _, rfl⟩
    · exact .inr ⟨_, _, by assumption, by assumption, h⟩

theorem stepOnce_answers (s : State) : ∃ t, stepOnce s = .next t := by
  unfold stepOnce
  split
  · exact ⟨_, rfl⟩
  · split
    · exact ⟨_, rfl⟩
    · exact exec_answers _ _

/-- Everything a transition can do when it answers a next state. -/
theorem step_cases {s t : State} (h : step s = .next t) :
    (∃ image rest, s.inputs = .reset image :: rest ∧ t = s.takeReset image) ∨
    ((∀ image rest, s.inputs ≠ .reset image :: rest) ∧
      ((s.run ≠ .running ∧ t = s.takeInput) ∨
       (s.run = .running ∧ s.env.stop = true ∧ t = { s.takeInput with run := .stopped }) ∨
       (s.run = .running ∧ s.env.stop = false ∧ s.cfg.stepsPerFrame ≠ 0 ∧
          ∃ u, stepOnce s = .next u ∧ t = (endSlot (yieldsNow s) u).takeInput))) := by
  unfold step transition at h
  split at h
  · cases h; exact .inl ⟨_, _, by assumption, rfl⟩
  · rename_i hne
    refine .inr ⟨fun image rest => hne image rest, ?_⟩
    split at h
    · rename_i hrun
      unfold slot at h
      split at h
      · cases h; exact .inr (.inl ⟨hrun, by assumption, rfl⟩)
      · split at h
        · cases h
        · split at h
          · cases h
            exact .inr (.inr ⟨hrun, by simp_all, by assumption, _, by assumption, rfl⟩)
          · cases h
          · cases h
    · cases h; exact .inl ⟨by simp_all, rfl⟩
    · cases h; exact .inl ⟨by simp_all, rfl⟩

/-- The word that was placed is the word the next step fetches. -/
theorem State.fetch_placeWord {s : State} (h : s.mem.wf) (w : Word) : (s.placeWord w).fetch = some w := by
  have ha : (if s.pc.toNat ≤ 0x0FFE then s.pc else 0x0200 : Word).toNat ≤ 0x0FFE := by split <;> simp_all
  have hl : ∀ a : Nat, a ≤ 0x0FFE → a + [highByte w, lowByte w].length ≤ memSize := by simp [memSize]
  simp only [State.fetch, State.placeWord, ha, if_true, Memory.read_writeBytes h (hl _ ha)]
  simp

end Sys2Proof.Machine
end

