-- ==== Sys2Proof/Tests/Slice0.lean ====
section
/-! SUPPORT. The model's own tests: the smoke test of WellFormed, a word written out from spec/ for every constructor,
one-step vectors of 95_test_vectors.md (named in each comment), and a witness for the hypotheses of every statement. -/

namespace Sys2Proof.Tests

open Sys2Proof.Machine

/-! ### WellFormed: the one check, with the ill-formed terms it refuses (30_encoding.md R65) -/

theorem test_wf_refuses_sys_0E0 : (Instr.sys 0x0E0).wf = false := by decide
theorem test_wf_refuses_sys_0EE : (Instr.sys 0x0EE).wf = false := by decide
theorem test_wf_accepts_sys_0E1 : (Instr.sys 0x0E1).wf = true := by decide

/-! ### Decoding: words written out from the opcode map (30_encoding.md R66) -/

theorem test_decode_cls : decodeTableWord 16 0x00E0 = some .cls := by decide
theorem test_decode_ret : decodeTableWord 16 0x00EE = some .ret := by decide
theorem test_decode_sys : decodeTableWord 16 0x0FFF = some (.sys 0xFFF) := by decide
theorem test_decode_jp : decodeTableWord 16 0x1234 = some (.jp 0x234) := by decide
theorem test_decode_call : decodeTableWord 16 0x2FED = some (.call 0xFED) := by decide
theorem test_decode_seImm : decodeTableWord 16 0x332A = some (.seImm 3 0x2A) := by decide
theorem test_decode_sneImm : decodeTableWord 16 0x4E01 = some (.sneImm 14 0x01) := by decide
theorem test_decode_seReg : decodeTableWord 16 0x512F = some (.seReg 1 2 0xF) := by decide
theorem test_decode_ldImm : decodeTableWord 16 0x6A7F = some (.ldImm 10 0x7F) := by decide
theorem test_decode_addImm : decodeTableWord 16 0x7F01 = some (.addImm 15 0x01) := by decide
theorem test_decode_ldReg : decodeTableWord 16 0x8120 = some (.ldReg 1 2) := by decide
theorem test_decode_orReg : decodeTableWord 16 0x8121 = some (.orReg 1 2) := by decide
theorem test_decode_andReg : decodeTableWord 16 0x8122 = some (.andReg 1 2) := by decide
theorem test_decode_xorReg : decodeTableWord 16 0x8123 = some (.xorReg 1 2) := by decide
theorem test_decode_addReg : decodeTableWord 16 0x8F14 = some (.addReg 15 1) := by decide
theorem test_decode_subReg : decodeTableWord 16 0x81F5 = some (.subReg 1 15) := by decide
theorem test_decode_shr : decodeTableWord 16 0x81F6 = some (.shr 1 15) := by decide
theorem test_decode_subnReg : decodeTableWord 16 0x8F17 = some (.subnReg 15 1) := by decide
theorem test_decode_shl : decodeTableWord 16 0x812E = some (.shl 1 2) := by decide
theorem test_decode_sneReg : decodeTableWord 16 0x9127 = some (.sneReg 1 2 0x7) := by decide
theorem test_decode_ldI : decodeTableWord 16 0xA250 = some (.ldI 0x250) := by decide
theorem test_decode_jpV0 : decodeTableWord 16 0xB300 = some (.jpV0 0x300) := by decide
theorem test_decode_rnd : decodeTableWord 16 0xC30F = some (.rnd 3 0x0F) := by decide
theorem test_decode_drw : decodeTableWord 16 0xD015 = some (.drw 0 1 0x5) := by decide
theorem test_decode_skp : decodeTableWord 16 0xE19E = some (.skp 1) := by decide
theorem test_decode_sknp : decodeTableWord 16 0xE1A1 = some (.sknp 1) := by decide
theorem test_decode_ldVxDT : decodeTableWord 16 0xF507 = some (.ldVxDT 5) := by decide
theorem test_decode_ldVxK : decodeTableWord 16 0xF30A = some (.ldVxK 3) := by decide
theorem test_decode_ldDTVx : decodeTableWord 16 0xF515 = some (.ldDTVx 5) := by decide
theorem test_decode_ldSTVx : decodeTableWord 16 0xF518 = some (.ldSTVx 5) := by decide
theorem test_decode_addI : decodeTableWord 16 0xFF1E = some (.addI 15) := by decide
theorem test_decode_ldF : decodeTableWord 16 0xF329 = some (.ldF 3) := by decide
theorem test_decode_ldB : decodeTableWord 16 0xF033 = some (.ldB 0) := by decide
theorem test_decode_ldMemVx : decodeTableWord 16 0xF155 = some (.ldMemVx 1) := by decide
theorem test_decode_ldVxMem : decodeTableWord 16 0xF265 = some (.ldVxMem 2) := by decide

/-- The vectors TA47 to TA49 and TK17 to TK21: illegal words. -/
theorem test_decode_illegal :
    [0x8018, 0x812F, 0x8129, 0xE19F, 0xE000, 0xF000, 0xF075, 0xF085].map (decodeTableWord 16) =
      List.replicate 8 none := by decide

/-- One byte is no word, and the bytes after an instruction are given back (30_encoding.md R60). -/
theorem test_decode_bytes :
    decodeBytes [0x12] = .error .truncated ∧ decodeBytes [0x12, 0x34, 0x56] = .ok (.jp 0x234, [0x56]) := by decide

/-! ### One step of the machine, from a small state -/

/-- The reset state with the listed registers. -/
def withRegs (rs : List (Reg × Byte)) : State := rs.foldl (fun s r => s.setReg r.1 r.2) State.reset

/-- The state with the environment of its next slot. -/
def withEnv (s : State) (keys : List Key) (pick : Key) (rnd : Byte) (stop : Bool) : State :=
  { s with inputs := [.slot { keys := keys, pick := pick, rnd := rnd, stop := stop }] }

/-- One step from `s` with a word placed where it fetches. -/
def after (s : State) (w : Nat) : Option State :=
  match step (s.withFetchWord 16 w) with
  | .next t => some t
  | .fault _ => none
  | .refused _ => none

/-- What one looks at after a fault: run state, cause, address of the instruction, word, info. -/
def faultOf (t : State) : Option FaultRecord := if t.run = .halted then t.fault else none

/-- The listed pixels of the framebuffer, by row and column. -/
def pixels (t : State) (ps : List (Fin 32 × Fin 64)) : List Bool := ps.map fun p => t.fb.px p.1 p.2

/-- TF2. -/
theorem test_sys :
    (after State.reset 0x0123).map (fun t => (t.pc, t.sp)) =
      some (0x0202, 0) := by decide
/-- TF8: odd and low target. -/
theorem test_jp :
    (after State.reset 0x1001).map (fun t => t.pc) =
      some 0x0001 := by decide
/-- TF12: pushes 0x1000. -/
theorem test_call_top :
    (after { State.reset with pc := 0x0FFE } 0x2FFF).map (fun t => (t.pc, t.sp, t.stack[0])) =
      some (0x0FFF, 1, 0x1000) := by decide
/-- TF11. -/
theorem test_call_full :
    (after { State.reset with sp := 16 } 0x2300).map (fun t => faultOf t) =
      some (some ⟨.stackOverflow, 0x0200, some 0x2300, some 16⟩) := by decide
/-- TF15. -/
theorem test_ret_full :
    (after { State.reset with sp := 16, stack := State.reset.stack.set 15 0x0ABC }
      0x00EE).map (fun t => (t.pc, t.sp, t.stack[15])) =
      some (0x0ABC, 15, 0x0ABC) := by decide
/-- TF14. -/
theorem test_ret_empty :
    (after State.reset 0x00EE).map (fun t => faultOf t) =
      some (some ⟨.stackUnderflow, 0x0200, some 0x00EE, some 0⟩) := by decide
/-- TF18. -/
theorem test_jpV0_top :
    (after (withRegs [(0, 0xFF)]) 0xBFFF).map (fun t => t.pc) =
      some 0x10FE := by decide
/-- TF19. -/
theorem test_jpV0_only_V0 :
    (after (withRegs [(0, 0x00), (3, 0x55)]) 0xB300).map (fun t => t.pc) =
      some 0x0300 := by decide
/-- TS1. -/
theorem test_seImm_taken :
    (after (withRegs [(3, 0x2A)]) 0x332A).map (fun t => t.pc) =
      some 0x0204 := by decide
/-- TS2. -/
theorem test_seImm_not_taken :
    (after (withRegs [(3, 0x2A)]) 0x332B).map (fun t => t.pc) =
      some 0x0202 := by decide
/-- TS3. -/
theorem test_sneImm_not_taken :
    (after (withRegs [(3, 0x2A)]) 0x432A).map (fun t => t.pc) =
      some 0x0202 := by decide
/-- TS4. -/
theorem test_sneImm_taken :
    (after (withRegs [(3, 0x2A)]) 0x4300).map (fun t => t.pc) =
      some 0x0204 := by decide
/-- TS6. -/
theorem test_seReg_low_nibble :
    (after (withRegs [(1, 0x07), (2, 0x07)]) 0x512F).map (fun t => t.pc) =
      some 0x0204 := by decide
/-- TS7. -/
theorem test_seReg_not_taken :
    (after (withRegs [(1, 0x07), (2, 0x08)]) 0x5120).map (fun t => t.pc) =
      some 0x0202 := by decide
/-- TS11. -/
theorem test_sneReg_low_nibble :
    (after (withRegs [(1, 0x07), (2, 0x08)]) 0x9127).map (fun t => t.pc) =
      some 0x0204 := by decide
/-- TS12. -/
theorem test_sneReg_same :
    (after (withRegs [(3, 0x09)]) 0x9330).map (fun t => t.pc) =
      some 0x0202 := by decide
/-- TA2. -/
theorem test_ldImm_VF :
    (after State.reset 0x6F05).map (fun t => (t.reg 15, t.pc)) =
      some (0x05, 0x0202) := by decide
/-- TA4: no flag. -/
theorem test_addImm_wraps :
    (after (withRegs [(0, 0xFF)]) 0x7001).map (fun t => (t.reg 0, t.reg 15)) =
      some (0x00, 0x00) := by decide
/-- TA7. -/
theorem test_ldReg :
    (after (withRegs [(2, 0x33)]) 0x8120).map (fun t => (t.reg 1, t.reg 2)) =
      some (0x33, 0x33) := by decide
/-- TA8. -/
theorem test_orReg :
    (after (withRegs [(1, 0xF0), (2, 0x0F), (15, 0x5A)]) 0x8121).map (fun t => (t.reg 1, t.reg 15, t.pc)) =
      some (0xFF, 0x5A, 0x0202) := by decide
/-- TA9. -/
theorem test_andReg :
    (after (withRegs [(1, 0xF0), (2, 0x3C), (15, 0x5A)]) 0x8122).map (fun t => (t.reg 1, t.reg 15, t.pc)) =
      some (0x30, 0x5A, 0x0202) := by decide
/-- TA10. -/
theorem test_xorReg :
    (after (withRegs [(1, 0xF0), (2, 0x3C), (15, 0x5A)]) 0x8123).map (fun t => (t.reg 1, t.reg 15, t.pc)) =
      some (0xCC, 0x5A, 0x0202) := by decide
/-- TA12. -/
theorem test_addReg_carry :
    (after (withRegs [(1, 0xC8), (2, 0x64)]) 0x8124).map (fun t => (t.reg 1, t.reg 15, t.pc)) =
      some (0x2C, 0x01, 0x0202) := by decide
/-- TA18. -/
theorem test_addReg_flag_wins :
    (after (withRegs [(15, 0x02), (1, 0x01)]) 0x8F14).map (fun t => (t.reg 1, t.reg 15, t.pc)) =
      some (0x01, 0x00, 0x0202) := by decide
/-- TA20. -/
theorem test_subReg_borrow :
    (after (withRegs [(1, 0x10), (2, 0x20)]) 0x8125).map (fun t => (t.reg 1, t.reg 15, t.pc)) =
      some (0xF0, 0x00, 0x0202) := by decide
/-- TA22. -/
theorem test_subReg_equal :
    (after (withRegs [(1, 0x05), (2, 0x05)]) 0x8125).map (fun t => (t.reg 1, t.reg 15, t.pc)) =
      some (0x00, 0x01, 0x0202) := by decide
/-- TA30. -/
theorem test_shr_ignores_Vy :
    (after (withRegs [(1, 0xFE), (2, 0x01)]) 0x8126).map (fun t => (t.reg 1, t.reg 15, t.pc)) =
      some (0x7F, 0x00, 0x0202) := by decide
/-- TA32. -/
theorem test_shr_x_F :
    (after (withRegs [(15, 0x03)]) 0x8F06).map (fun t => t.reg 15) =
      some 0x01 := by decide
/-- TA33. -/
theorem test_subnReg :
    (after (withRegs [(1, 0x10), (2, 0x20)]) 0x8127).map (fun t => (t.reg 1, t.reg 15, t.pc)) =
      some (0x10, 0x01, 0x0202) := by decide
/-- TA34. -/
theorem test_subnReg_borrow :
    (after (withRegs [(1, 0x20), (2, 0x10)]) 0x8127).map (fun t => (t.reg 1, t.reg 15, t.pc)) =
      some (0xF0, 0x00, 0x0202) := by decide
/-- TA41. -/
theorem test_shl_ignores_Vy :
    (after (withRegs [(1, 0x01), (2, 0xFF)]) 0x812E).map (fun t => (t.reg 1, t.reg 15, t.pc)) =
      some (0x02, 0x00, 0x0202) := by decide
/-- TA42. -/
theorem test_shl_x_F :
    (after (withRegs [(15, 0x80)]) 0x8F0E).map (fun t => t.reg 15) =
      some 0x01 := by decide
/-- TA44. -/
theorem test_rnd :
    (after (withEnv State.reset [] 0 0xA7 false) 0xC30F).map (fun t => (t.reg 3, t.pc, t.inputs)) =
      some (0x07, 0x0202, []) := by decide
/-- TA45. -/
theorem test_rnd_mask_0 :
    (after (withEnv (withRegs [(3, 0x55)]) [] 0 0xFF false) 0xC300).map (fun t => t.reg 3) =
      some 0x00 := by decide
/-- TM3. -/
theorem test_ldI :
    (after State.reset 0xAFFF).map (fun t => (t.i, t.pc)) =
      some (0x0FFF, 0x0202) := by decide
/-- TM6. -/
theorem test_addI_wraps :
    (after { withRegs [(2, 0x01)] with i := 0xFFFF } 0xF21E).map (fun t => (t.i, t.reg 15)) =
      some (0x0000, 0x00) := by decide
/-- TM5. -/
theorem test_addI_past_memory :
    (after { withRegs [(2, 0x01)] with i := 0x0FFF } 0xF21E).map (fun t => (t.i, t.run)) =
      some (0x1000, .running) := by decide
/-- TM12. -/
theorem test_ldF_unmasked :
    (after (withRegs [(3, 0xFF)]) 0xF329).map (fun t => t.i) =
      some 0x054B := by decide
/-- TM8. -/
theorem test_ldF_A :
    (after (withRegs [(3, 0x0A)]) 0xF329).map (fun t => t.i) =
      some 0x0082 := by decide
/-- TM13. -/
theorem test_ldB :
    (after { withRegs [(0, 0x9C)] with i := 0x0300 } 0xF033).map (fun t => (t.mem.readBytes 0x300 3, t.i)) =
      some ([0x01, 0x05, 0x06], 0x0300) := by decide
/-- TM20. -/
theorem test_ldB_write_protect :
    (after { withRegs [(0, 0x64)] with i := 0x004E } 0xF033).map (fun t => (faultOf t, t.mem.read 0x04E)) =
      some (some ⟨.writeProtect, 0x0200, some 0xF033, some 0x050⟩, 0x00) := by decide
/-- TM23. -/
theorem test_ldMemVx :
    (after { withRegs [(0, 0x11), (1, 0x22), (2, 0x33)] with i := 0x0400 }
      0xF155).map (fun t => (t.mem.readBytes 0x400 3, t.i)) =
      some ([0x11, 0x22, 0x00], 0x0400) := by decide
/-- TM25. -/
theorem test_ldMemVx_bounds :
    (after { withRegs [(0, 0x11), (1, 0x22)] with i := 0x0FFF } 0xF155).map (fun t => (faultOf t, t.mem.read 0xFFF)) =
      some (some ⟨.addrBounds, 0x0200, some 0xF155, some 0x1000⟩, 0x00) := by decide
/-- TM33. -/
theorem test_ldVxMem_glyph :
    (after { State.reset with i := 0x0050 } 0xF465).map (fun t => (t.reg 0, t.reg 1, t.reg 4, t.reg 5, t.i)) =
      some (0xF0, 0x90, 0xF0, 0x00, 0x0050) := by decide
/-- TM32. -/
theorem test_ldVxMem_bounds :
    (after { State.reset with i := 0x0FFF, mem := [(0xFFF, 0x5A)] } 0xF165).map (fun t => (faultOf t, t.reg 0)) =
      some (some ⟨.addrBounds, 0x0200, some 0xF165, some 0x1000⟩, 0x00) := by decide
/-- TK1. -/
theorem test_ldVxDT :
    (after { State.reset with dt := 0x3C } 0xF507).map (fun t => (t.reg 5, t.dt)) =
      some (0x3C, 0x3C) := by decide
/-- TK2. -/
theorem test_ldDTVx :
    (after (withRegs [(5, 0x3C)]) 0xF515).map (fun t => (t.dt, t.st)) =
      some (0x3C, 0x00) := by decide
/-- TK4. -/
theorem test_ldSTVx :
    (after (withRegs [(5, 0x04)]) 0xF518).map (fun t => (t.st, t.dt, t.soundActive)) =
      some (0x04, 0x00, true) := by decide
/-- TK5. -/
theorem test_skp_held :
    (after (withEnv (withRegs [(1, 0x05)]) [5] 5 0 false) 0xE19E).map (fun t => t.pc) =
      some 0x0204 := by decide
/-- TK7. -/
theorem test_skp_code_above_15 :
    (after (withEnv (withRegs [(1, 0x15)]) [5] 5 0 false) 0xE19E).map (fun t => t.pc) =
      some 0x0202 := by decide
/-- TK9. -/
theorem test_sknp_held :
    (after (withEnv (withRegs [(1, 0x05)]) [5] 5 0 false) 0xE1A1).map (fun t => t.pc) =
      some 0x0202 := by decide
/-- TK10. -/
theorem test_sknp_not_held :
    (after (withEnv (withRegs [(1, 0x06)]) [5] 5 0 false) 0xE1A1).map (fun t => t.pc) =
      some 0x0204 := by decide
/-- TK14. -/
theorem test_ldVxK_pick :
    (after (withEnv (withRegs [(3, 0x99)]) [2, 9] 9 0 false) 0xF30A).map (fun t => (t.reg 3, t.pc, t.slot)) =
      some (0x09, 0x0202, 1) := by decide
/-- TK12, TE4. -/
theorem test_ldVxK_waits :
    (after { State.reset with slot := 3, dt := 0x05 } 0xF30A).map (fun t => (t.pc, t.slot, t.dt, t.taken)) =
      some (0x0200, 0, 0x04, 1) := by decide
/-- TD1. -/
theorem test_cls :
    (after { State.reset with fb := (Framebuffer.blank.flip 0 0).flip 31 63 }
      0x00E0).map (fun t => (pixels t [(0, 0), (31, 63)], t.reg 15)) =
      some ([false, false], 0x00) := by decide
/-- TD3. -/
theorem test_drw_wraps :
    (after { withRegs [(0, 0x3C), (1, 0x1E)] with i := 0x0055 }
      0xD015).map (fun t => pixels t [(30, 62), (31, 61), (0, 62), (2, 63), (30, 61), (2, 60)]) =
      some [true, true, true, true, false, false] := by decide
/-- TD4. -/
theorem test_drw_collision :
    (after { State.reset with i := 0x0300, mem := [(0x300, 0x80)], fb := Framebuffer.blank.flip 0 0 }
      0xD011).map (fun t => (pixels t [(0, 0), (0, 1)], t.reg 15)) =
      some ([false, false], 0x01) := by decide

/-! ### Frame engine, fetch and reset -/

/-- TE2: the tenth slot of a frame. -/
theorem test_end_of_frame :
    (after { State.reset with slot := 9, dt := 0x05 } 0x0000).map (fun t => (t.slot, t.dt, t.st)) =
      some (0, 0x04, 0x00) := by decide

/-- TE5: a fault uses no slot and ticks nothing. -/
theorem test_fault_ends_no_frame :
    (after { State.reset with slot := 9, dt := 0x05 } 0x8018).map (fun t => (t.slot, t.dt, faultOf t)) =
      some (9, 0x05, some ⟨.decodeFault, 0x0200, some 0x8018, some 0x8018⟩) := by decide

/-- TE6: a stop request, taken before the step. -/
theorem test_stop_request :
    (match step (withEnv { State.reset with slot := 3, dt := 0x05 } [] 0 0 true) with
      | .next t => some (t.slot, t.dt, t.pc, t.run)
      | .fault _ => none
      | .refused _ => none) = some (3, 0x05, 0x0200, .stopped) := by decide

/-- TR2: no fetch at 0x0FFF. -/
theorem test_fetch_past_the_end :
    (match step { State.reset with pc := 0x0FFF } with
      | .next t => faultOf t
      | .fault _ => none
      | .refused _ => none) = some ⟨.pcBounds, 0x0FFF, none, some 0x0FFF⟩ := by decide

/-- TR5: the glyph table is fetched like any bytes. -/
theorem test_fetch_glyph_table :
    (match step { State.reset with pc := 0x0050 } with
      | .next t => faultOf t
      | .fault _ => none
      | .refused _ => none) = some ⟨.decodeFault, 0x0050, some 0xF090, some 0xF090⟩ := by decide

/-- TR8: no image. -/
theorem test_reset_without_image :
    faultOf (resetWith Config.default none) = some ⟨.loadFault, 0x0200, none, none⟩ := by decide

/-- S1: the image 60 05 70 03, stepped twice. -/
theorem test_load_and_add :
    (match Host.Core.run Sys2Proof.core 2 (resetWith Config.default (some [0x60, 0x05, 0x70, 0x03])) with
      | .next t => some (t.reg 0, t.pc, t.reg 15, t.slot)
      | .fault _ => none
      | .refused _ => none) = some (0x08, 0x0204, 0x00, 2) := by decide

/-! ### The canonical form of memory -/

/-- Writing what an unlisted address reads as removes the entry, in the glyph table too. -/
theorem test_write_back_removes :
    (Memory.write [(0x300, 0x12)] 0x300 0x00 = []) ∧
      Memory.write (Memory.write [] 0x050 0x12) 0x050 0xF0 = [] := by decide

/-- Cells rise strictly, whatever the order of the writes. -/
theorem test_write_order :
    Memory.write (Memory.write [] 0x301 0x02) 0x300 0x01 = [(0x300, 0x01), (0x301, 0x02)] ∧
      Memory.write (Memory.write [] 0x300 0x01) 0x301 0x02 = [(0x300, 0x01), (0x301, 0x02)] := by decide

/-! ### Witnesses: states and operands that meet the hypotheses of the statements, clause by clause -/

/-- One of the reset state's slots takes a step. -/
theorem reset_takes_step : State.reset.TakesStep := by
  refine ⟨rfl, ?_, rfl, by decide⟩
  intro image rest h
  cases h

/-- A state that is not the reset state and has the invariant: a stored byte, a drawn pixel, a full stack, a used slot,
an input to come. -/
def busy : State :=
  { withRegs [(0, 0x12), (1, 0x34), (3, 0xFF), (15, 0x01)] with
    i := 0x0300, pc := 0x0FFE, sp := 16, slot := 9, dt := 0x02, mem := [(0x300, 0x80), (0x301, 0x01)]
    fb := Framebuffer.blank.flip 0 0
    inputs := [.slot { keys := [5, 2], pick := 2, rnd := 0xA7, stop := false }] }

theorem busy_inv : busy.Inv := by
  have hf : busy.fault = none := rfl
  have hr : busy.run = .running := rfl
  exact ⟨by decide, by decide, fun _ => by decide, by decide, by simp [hf, hr], by simp [hf]⟩

theorem busy_pc_bounded : busy.PcBounded := ⟨by decide, by decide⟩

/-- The states of the two invariant statements take a next state. -/
theorem witness_invariants : (∃ t, step busy = .next t) ∧ busy.Inv ∧ busy.PcBounded := by
  exact ⟨⟨_, rfl⟩, busy_inv, busy_pc_bounded⟩

theorem witness_SysIsInert : (0x0E1#12 ≠ 0x0E0#12) ∧ 0x0E1#12 ≠ 0x0EE#12 := by decide

/-- The last free entry, and the full stack. -/
theorem witness_CallPushesTheReturnAddress :
    ({ State.reset with sp := 15 } : State).sp.val < 16 ∧ ({ State.reset with sp := 16 } : State).sp.val = 16 := by
  decide

theorem witness_RetPopsTheReturnAddress :
    0 < ({ State.reset with sp := 1 } : State).sp.val ∧ 0 < ({ State.reset with sp := 16 } : State).sp.val ∧
      State.reset.sp.val = 0 ∧ State.reset.sp.val < 16 := by decide

theorem witness_SkipsOnImmediates :
    (withRegs [(3, 0x2A)]).reg 3 = 0x2A ∧ (withRegs [(3, 0x2A)]).reg 3 ≠ 0xAA := by decide

theorem witness_SkipsOnRegisters :
    State.reset.reg 1 = State.reset.reg 2 ∧ (withRegs [(1, 0x80)]).reg 1 ≠ (withRegs [(1, 0x80)]).reg 2 := by decide

/-- The sums 256 and 255. -/
theorem witness_AddSetsTheCarry :
    (1 : Reg) ≠ 15 ∧
      255 < ((withRegs [(1, 0xFF), (2, 0x01)]).reg 1).toNat + ((withRegs [(1, 0xFF), (2, 0x01)]).reg 2).toNat ∧
      ((withRegs [(1, 0xFE), (2, 0x01)]).reg 1).toNat + ((withRegs [(1, 0xFE), (2, 0x01)]).reg 2).toNat ≤ 255 := by
  decide

/-- Equal operands, a difference of one each way. -/
theorem witness_SubtractionsSetNoBorrow :
    (1 : Reg) ≠ 15 ∧ (State.reset.reg 2).toNat ≤ (State.reset.reg 1).toNat ∧
      ((withRegs [(2, 0x01)]).reg 1).toNat < ((withRegs [(2, 0x01)]).reg 2).toNat ∧
      ((withRegs [(1, 0x01)]).reg 2).toNat < ((withRegs [(1, 0x01)]).reg 1).toNat := by decide

theorem witness_ShiftsSetTheBitShiftedOut : (14 : Reg) ≠ 15 := by decide

theorem witness_RndMasksTheDrawnByte :
    busy.inputs = .slot { keys := [5, 2], pick := 2, rnd := 0xA7, stop := false } :: [] ∧
      (0x0F : Byte).getLsbD 4 = false := by decide

/-- The three bytes just below the glyph table, just above it, and at the top of memory; and with `allow`, in it. -/
theorem witness_BcdStoresThreeDigits :
    State.reset.mem.wf ∧ (∀ k < 3, MayStore State.reset (0x04D + k)) ∧ (∀ k < 3, MayStore State.reset (0x0A0 + k)) ∧
      (∀ k < 3, MayStore State.reset (0xFFD + k)) ∧
      ∀ k < 3, MayStore { State.reset with cfg := { Config.default with glyphWritePolicy := .allow } } (0x050 + k) := by
  unfold MayStore
  decide

/-- All sixteen registers at the top of memory, under both settings of LDST_I_INC. -/
theorem witness_BulkStoreWritesRegisters :
    State.reset.mem.wf ∧ (∀ k ≤ (15 : Reg).val, MayStore { State.reset with i := 0x0FF0 } (0x0FF0 + k)) ∧
      State.reset.cfg.ldstIInc = false ∧
      ({ State.reset with cfg := { Config.default with ldstIInc := true } } : State).cfg.ldstIInc = true := by
  unfold MayStore
  decide

theorem witness_BulkLoadReadsRegisters :
    ({ State.reset with i := 0x0FF0 } : State).i.toNat + (15 : Reg).val < 4096 ∧
      ({ State.reset with i := 0x0FFF } : State).i.toNat + (0 : Reg).val < 4096 ∧ (0 : Reg) < 1 := by decide

/-- The first address of the glyph table, its last, and the first address past memory. -/
theorem witness_StoresFaultAtTheFirstBadAddress :
    (storeLength (.ldB 0) = 3 ∧ (∀ b, 0x04E ≤ b → b < 0x050 → MayStore { State.reset with i := 0x004E } b) ∧
      StoreFaults { State.reset with i := 0x004E } 0x050 .writeProtect) ∧
    StoreFaults State.reset 0x09F .writeProtect ∧
    (storeLength (.ldMemVx 1) = 2 ∧ (∀ b, 0xFFF ≤ b → b < 0x1000 → MayStore { State.reset with i := 0x0FFF } b) ∧
      StoreFaults { State.reset with i := 0x0FFF } 0x1000 .addrBounds) := by
  refine ⟨⟨rfl, fun b h1 h2 => ⟨by omega, fun _ => .inl (by omega)⟩, .inr ⟨rfl, rfl, by omega, by omega⟩⟩,
    .inr ⟨rfl, rfl, by omega, by omega⟩,
    rfl, fun b h1 h2 => ⟨by omega, fun _ => .inr (by omega)⟩, .inl ⟨rfl, by omega⟩⟩

theorem witness_LoadsFaultAtTheFirstBadAddress :
    loadLength (.drw 0 0 0xF) = 15 ∧ loadLength (.ldVxMem 1) = 2 ∧
      (({ State.reset with i := 0x0FF2 } : State).i.toNat ≤ 0x1000 ∧ 0x1000 < 0x0FF2 + 15) ∧
      ({ State.reset with i := 0x0FFF } : State).i.toNat ≤ 0x1000 ∧ 0x1000 < 0x0FFF + 2 := by decide

theorem witness_StoredWordIsFetchedBigEndian :
    1 ≤ (1 : Reg).val ∧ busy.mem.wf ∧ (∀ k ≤ (1 : Reg).val, MayStore busy (busy.i.toNat + k)) ∧
      ∃ t, exec (.ldMemVx 1) busy = .next t :=
  ⟨by decide, by decide, by unfold MayStore; decide, exec_answers _ _⟩

/-- The highest key held and not held. -/
theorem witness_KeySkipsTestTheKey :
    (∃ k ∈ (withEnv (withRegs [(1, 0x0F)]) [15] 15 0 false).env.keys,
        k.val = ((withEnv (withRegs [(1, 0x0F)]) [15] 15 0 false).reg 1).toNat) ∧
      ∀ k ∈ (withEnv (withRegs [(1, 0x10)]) [0, 15] 15 0 false).env.keys,
        k.val ≠ ((withEnv (withRegs [(1, 0x10)]) [0, 15] 15 0 false).reg 1).toNat := by decide

theorem witness_KeyWaitLoadsAHeldKey :
    busy.env.keys ≠ [] ∧ busy.env.pick ∈ busy.env.keys ∧ State.reset.env.keys = [] := by
  exact ⟨by decide, by decide, rfl⟩

theorem witness_KeyQueriesAnswerFromTheSample :
    (busy.inputs = .slot { keys := [5, 2], pick := 2, rnd := 0xA7, stop := false } :: []) ∧
      Env.anyKey { keys := [5, 2], pick := 2, rnd := 0xA7, stop := false } = some 2 ∧
      Env.anyKey { keys := [5, 2], pick := 7, rnd := 0xA7, stop := false } = some 5 := by decide

/-- The last legal sprite of 15 rows, height 0 anywhere, and a sprite that covers a pixel that is on. -/
theorem witness_DrawXorsTheSprite :
    ({ State.reset with i := 0x0FF1 } : State).i.toNat + (0xF#4).toNat ≤ 4096 ∧ (0x0#4 = 0#4) ∧
      (SpriteCovers { busy with v := State.reset.v } 0 1 0x1 0 0 ∧ busy.fb.px 0 0 = true) ∧
      ¬ SpriteCovers { busy with v := State.reset.v } 0 1 0x1 0 1 ∧ busy.fb.px 0 1 = false := by
  unfold SpriteCovers
  decide

theorem witness_DrawTwiceRestoresTheScreen :
    (0 : Reg) ≠ 15 ∧ (1 : Reg) ≠ 15 ∧ busy.i.toNat + (0x2#4).toNat ≤ 4096 ∧
      (∃ row < (0x2#4).toNat, busy.mem.read (busy.i.toNat + row) ≠ 0x00) ∧
      ∀ row < (0x2#4).toNat, State.reset.mem.read (State.reset.i.toNat + row) = 0x00 := by decide

/-- For the statements over every executed instruction: each one answers a next state. -/
theorem witness_exec_answers : (∃ t, exec (.drw 0 1 0x2) busy = .next t) ∧ (∃ t, exec .cls busy = .next t) ∧
    (∃ t, exec (.ldSTVx 3) busy = .next t) ∧ ∃ t, exec (.jp 0x234) busy = .next t :=
  ⟨exec_answers _ _, exec_answers _ _, exec_answers _ _, exec_answers _ _⟩

theorem busy_takes_step : busy.TakesStep := by
  refine ⟨rfl, ?_, rfl, by decide⟩
  intro image rest h
  cases h

theorem witness_StepRunsTheDecodedInstruction :
    busy.TakesStep ∧ busy.pc.toNat ≤ 0x0FFE ∧
      decodeBytes [busy.mem.read busy.pc.toNat, busy.mem.read (busy.pc.toNat + 1)] = .ok (.sys 0x000, []) :=
  ⟨busy_takes_step, by decide, by decide⟩

/-- The last slot but one of a frame, the last, a yield in the first, and a state that is not running. -/
theorem witness_SlotAccountingOfAStep :
    (({ State.reset with slot := 8 } : State).slot + 1 ≠ State.reset.cfg.stepsPerFrame) ∧
      ({ State.reset with slot := 9 } : State).slot + 1 = State.reset.cfg.stepsPerFrame ∧
      yields (.ldVxK 0) State.reset = true ∧ ({ State.reset with run := .halted } : State).run ≠ .running := by
  exact ⟨by decide, by decide, rfl, by decide⟩

/-- A slot that ends a frame, and one that does not. -/
theorem witness_RenderPresentsTheEndOfFrame :
    rendered { busy with pc := 0x0200 } ≠ none ∧ rendered State.reset = none ∧ State.reset.TakesStep ∧
      ∃ t, step State.reset = .next t := by
  exact ⟨by decide, by decide, reset_takes_step, _, rfl⟩

theorem witness_FetchPastTheEndHalts : ∃ s : State, s.TakesStep ∧ s.pc = 0x0FFF ∧ 0x0FFE < s.pc.toNat :=
  ⟨{ State.reset with pc := 0x0FFF }, ⟨rfl, reset_takes_step.2.1, rfl, by decide⟩, rfl, by decide⟩

theorem witness_IllegalWordHalts : ∃ s : State, s.TakesStep ∧ s.fetch = some 0xF090 ∧
    decodeWord 0xF090 = .error .unknownSubcodeF :=
  ⟨{ State.reset with pc := 0x0050 }, ⟨rfl, reset_takes_step.2.1, rfl, by decide⟩, by decide, by decide⟩

theorem witness_FaultsArePrecise : ∃ s t : State, s.TakesStep ∧ step s = .next t ∧ t.run ≠ .running := by
  refine ⟨{ State.reset with pc := 0x0FFF }, ({ State.reset with pc := 0x0FFF } : State).raise .pcBounds none
    (some 0x0FFF) |>.takeInput, ⟨rfl, reset_takes_step.2.1, rfl, by decide⟩, rfl, by decide⟩

/-- Each of the four faults of an executed instruction. -/
theorem witness_FaultsComeOnlyFromTheirInstructions :
    (∃ t, exec (.call 0x300) busy = .next t ∧ t.run = .halted) ∧
      (∃ t, exec .ret State.reset = .next t ∧ t.run = .halted) ∧
      (∃ t, exec (.ldVxMem 1) { State.reset with i := 0x0FFF } = .next t ∧ t.run = .halted) ∧
      (∃ t, exec (.ldB 0) { State.reset with i := 0x004E } = .next t ∧ t.run = .halted) ∧
      busy.run = .running ∧ State.reset.run = .running :=
  ⟨⟨_, rfl, rfl⟩, ⟨_, rfl, rfl⟩, ⟨_, rfl, rfl⟩, ⟨_, rfl, rfl⟩, rfl, rfl⟩

theorem witness_StopRequestStopsBeforeTheStep :
    (withEnv State.reset [] 0 0 true).run = .running ∧
      (∀ image rest, (withEnv State.reset [] 0 0 true).inputs ≠ .reset image :: rest) ∧
      (withEnv State.reset [] 0 0 true).env.stop = true := by
  refine ⟨rfl, ?_, rfl⟩
  intro image rest h
  cases h

/-- Halted and stopped, with an input to come. -/
theorem witness_HaltedAndStoppedAreAbsorbing :
    ({ busy with run := .halted } : State).run ≠ .running ∧ ({ busy with run := .stopped } : State).run ≠ .running ∧
      ∀ image, Input.reset image ∉ busy.inputs := by
  refine ⟨by decide, by decide, ?_⟩
  intro image h
  simp [busy] at h

/-- A reset in every run state. -/
theorem witness_ResetEventDiscardsEverything :
    ∀ r : RunState, ({ busy with run := r, inputs := [.reset none] } : State).inputs = .reset none :: [] := fun _ => rfl

theorem witness_EveryStepAnswersANextState :
    1 ≤ busy.cfg.stepsPerFrame ∧
      step { State.reset with cfg := { Config.default with stepsPerFrame := 0 } } = .fault .noSlotInFrame :=
  ⟨by decide, rfl⟩

/-- The longest image, with a memory fill that is not 0x00. -/
theorem witness_ResetLoadsTheImage :
    ({ Config.default with memFill := [(0x04F, 0xFF), (0x0A0, 0xFF)] } : Config).wf ∧
      (List.replicate 3584 (0x01 : Byte)).length ≤ 3584 :=
  ⟨by decide, by rw [List.length_replicate]⟩

/-- One byte too many, no image, and the longest image. -/
theorem witness_LoadFaultStartsHalted :
    (∀ bytes, some (List.replicate 3585 (0x01 : Byte)) = some bytes → 3584 < bytes.length) ∧
      (∀ bytes, (none : Option (List Byte)) = some bytes → 3584 < bytes.length) ∧
      (∀ im, Input.reset im ∉ busy.inputs) ∧ (List.replicate 3584 (0x01 : Byte)).length ≤ 3584 := by
  refine ⟨fun bytes h => ?_, fun _ h => (nomatch h), witness_HaltedAndStoppedAreAbsorbing.2.2, ?_⟩
  · cases h; rw [List.length_replicate]; omega
  · rw [List.length_replicate]

theorem witness_SixOperationsWriteTheFlag :
    (writesFlag (.addReg 15 1) = true ∧ ∃ t, exec (.addReg 15 1) busy = .next t ∧ t.run = .running) ∧
      writesFlag (.addImm 14 0xFF) = false ∧ destination (.addImm 14 0xFF) ≠ some 15 ∧
      Instr.addImm 14 0xFF ≠ .ldVxMem 15 ∧ ∃ t, exec (.addImm 14 0xFF) busy = .next t :=
  ⟨⟨rfl, _, rfl, rfl⟩, rfl, by decide, by decide, _, rfl⟩

/-- A changed register, index register, stack pointer, stack, timer and memory. -/
theorem witness_EachStateHasItsWriters :
    (∃ t, exec (.ldImm 0 0x99) busy = .next t ∧ t.reg 0 ≠ busy.reg 0) ∧
      (∃ t, exec (.ldI 0x999) busy = .next t ∧ t.i ≠ busy.i) ∧
      (∃ t, exec .ret busy = .next t ∧ t.sp ≠ busy.sp) ∧
      (∃ t, exec (.call 0x300) { busy with sp := 0 } = .next t ∧ t.stack ≠ busy.stack) ∧
      (∃ t, exec (.ldDTVx 3) busy = .next t ∧ t.dt ≠ busy.dt) ∧
      (∃ t, exec (.ldSTVx 3) busy = .next t ∧ t.st ≠ busy.st) ∧
      ∃ t, exec (.ldMemVx 1) busy = .next t ∧ t.mem ≠ busy.mem :=
  ⟨⟨_, rfl, by decide⟩, ⟨_, rfl, by decide⟩, ⟨_, rfl, by decide⟩, ⟨_, rfl, by decide⟩, ⟨_, rfl, by decide⟩,
    ⟨_, rfl, by decide⟩, ⟨_, rfl, by decide⟩⟩

theorem witness_OnlyFourInstructionsReadTheInputs :
    (∀ x kk, Instr.cls ≠ .rnd x kk) ∧ (∀ x, Instr.cls ≠ .skp x) ∧ (∀ x, Instr.cls ≠ .sknp x) ∧
      (∀ x, Instr.cls ≠ .ldVxK x) ∧ ∃ t, exec .cls busy = .next t :=
  ⟨nofun, nofun, nofun, nofun, exec_answers _ _⟩

theorem witness_DecodeInvertsEncode :
    (Instr.sys 0x0E1).wf = true ∧ (Instr.sys 0xFFF).wf = true ∧ (Instr.drw 15 15 0xF).wf = true := by decide

theorem witness_EncodeInvertsDecode : decodeWord 0xFFFF = .error .unknownSubcodeF ∧
    decodeWord 0xDFFF = .ok (.drw 15 15 0xF) ∧ decodeWord 0x0FFF = .ok (.sys 0xFFF) := by decide

/-- A legal word, an illegal one, and the two words that two rows match. -/
theorem witness_DecoderAgreesWithTheOpcodeMap :
    decodeWord 0x8F1E = .ok (.shl 15 1) ∧ decodeWord 0x8F1F = .error .unknownSubcode8 ∧ opcodeMap.length = 35 ∧
      ((0x00E0 : Word) &&& 0xFFFF = 0x00E0 ∧ (0x00E0 : Word) &&& 0xF000 = 0x0000) ∧
      (0x00EE : Word) &&& 0xFFFF = 0x00EE ∧ (0x00EE : Word) &&& 0xF000 = 0x0000 := by decide

end Sys2Proof.Tests
end

/-! The illegal words (spec 30_encoding.md R71), for O56: for each sub-dispatched category the sub-codes that its own
decoder refuses, then the words that `decodeWord` refuses, then their number. -/

namespace Sys2Proof

/-- The low nibbles that category 0x8 gives no operation (30_encoding.md R67, R71). -/
def illegalNibbles8 : List (BitVec 4) := [0x8#4, 0x9#4, 0xA#4, 0xB#4, 0xC#4, 0xD#4, 0xF#4]

/-- The sub-codes of category 0xE (30_encoding.md R68). -/
def subcodesE : List Byte := [0x9E#8, 0xA1#8]

/-- The sub-codes of category 0xF (30_encoding.md R69). -/
def subcodesF : List Byte := [0x07#8, 0x0A#8, 0x15#8, 0x18#8, 0x1E#8, 0x29#8, 0x33#8, 0x55#8, 0x65#8]

/-! ### The three sub-dispatches -/

theorem decode8_error_iff (w : Word) : (∃ e, decode8 w = .error e) ↔ nibbleOf w ∈ illegalNibbles8 := by
  have hlt : (nibbleOf w).toNat < 16 := (nibbleOf w).isLt
  unfold decode8
  split
  case h_10 =>
    suffices h : nibbleOf w ∈ illegalNibbles8 from ⟨fun _ => h, fun _ => ⟨_, rfl⟩⟩
    -- `split` gives the default branch its hypotheses as `_ → False`, which `omega` does not read
    simp only [imp_false] at *
    simp only [illegalNibbles8, List.mem_cons, List.not_mem_nil, or_false, ← BitVec.toNat_inj, BitVec.toNat_ofNat]
    omega
  all_goals simp [illegalNibbles8, ← BitVec.toNat_inj, *]

theorem decodeE_error_iff (w : Word) : (∃ e, decodeE w = .error e) ↔ imm8Of w ∉ subcodesE := by
  unfold decodeE
  split
  case h_3 h9E hA1 => simpa [subcodesE, ← BitVec.toNat_inj] using ⟨h9E, hA1⟩
  all_goals simp [subcodesE, ← BitVec.toNat_inj, *]

theorem decodeF_error_iff (w : Word) : (∃ e, decodeF w = .error e) ↔ imm8Of w ∉ subcodesF := by
  unfold decodeF
  split
  case h_10 =>
    simp only [imp_false] at *
    simp [subcodesF, ← BitVec.toNat_inj, *]
  all_goals simp [subcodesF, ← BitVec.toNat_inj, *]

/-! ### The dispatch on the category -/

theorem decodeWord_of_cat8 {w : Word} (h : catOf w = 0x8#4) : decodeWord w = decode8 w := by
  simp [decodeWord, h]

theorem decodeWord_of_catE {w : Word} (h : catOf w = 0xE#4) : decodeWord w = decodeE w := by
  simp [decodeWord, h]

theorem decodeWord_of_catF {w : Word} (h : catOf w = 0xF#4) : decodeWord w = decodeF w := by
  simp [decodeWord, h]

/-- Every other category has an operation for each of its words. -/
theorem decodeWord_ok_of_cat {w : Word} (h8 : catOf w ≠ 0x8#4) (hE : catOf w ≠ 0xE#4) (hF : catOf w ≠ 0xF#4) :
    ∃ i, decodeWord w = .ok i := by
  have hlt : (catOf w).toNat < 16 := (catOf w).isLt
  simp only [ne_eq, ← BitVec.toNat_inj, BitVec.toNat_ofNat] at h8 hE hF
  unfold decodeWord
  split
  case h_9 => contradiction
  case h_15 => contradiction
  case h_16 =>
    simp only [imp_false] at *
    omega
  all_goals exact ⟨_, rfl⟩

/-- 30_encoding.md R71 over all words. -/
theorem decodeWord_error_iff (w : Word) : (∃ e, decodeWord w = .error e) ↔
    (catOf w = 0x8#4 ∧ nibbleOf w ∈ illegalNibbles8) ∨ (catOf w = 0xE#4 ∧ imm8Of w ∉ subcodesE) ∨
      (catOf w = 0xF#4 ∧ imm8Of w ∉ subcodesF) := by
  by_cases h8 : catOf w = 0x8#4
  · simp [decodeWord_of_cat8 h8, decode8_error_iff, h8]
  by_cases hE : catOf w = 0xE#4
  · simp [decodeWord_of_catE hE, decodeE_error_iff, hE]
  by_cases hF : catOf w = 0xF#4
  · simp [decodeWord_of_catF hF, decodeF_error_iff, hF]
  · obtain ⟨i, hi⟩ := decodeWord_ok_of_cat h8 hE hF
    simp [hi, h8, hE, hF]

/-! ### The number of illegal words of each category -/

theorem decodeWord_toOption_eq_none_iff (w : Word) :
    (decodeWord w).toOption = none ↔ ∃ e, decodeWord w = .error e := by
  cases decodeWord w <;> simp [Except.toOption]

theorem decodeWord_formatXYN8_none_iff (x y : Reg) (n : BitVec 4) :
    (decodeWord (formatXYN 0x8#4 x y n)).toOption = none ↔ n ∈ illegalNibbles8 := by
  simp [decodeWord_toOption_eq_none_iff, decodeWord_error_iff]

theorem decodeWord_formatXKKE_none_iff (x : Reg) (kk : Byte) :
    (decodeWord (formatXKK 0xE#4 x kk)).toOption = none ↔ kk ∉ subcodesE := by
  simp [decodeWord_toOption_eq_none_iff, decodeWord_error_iff]

theorem decodeWord_formatXKKF_none_iff (x : Reg) (kk : Byte) :
    (decodeWord (formatXKK 0xF#4 x kk)).toOption = none ↔ kk ∉ subcodesF := by
  simp [decodeWord_toOption_eq_none_iff, decodeWord_error_iff]

/-- Counting over all values of a width is counting the listed ones, so that no count below runs through 256 words. -/
theorem countP_mem_eq_length {k : Nat} {l : List (BitVec k)} (hl : l.Nodup) :
    ((List.finRange (2 ^ k)).countP fun n => BitVec.ofFin n ∈ l) = l.length := by
  have hnodup : (l.map BitVec.toFin).Nodup := hl.map fun _ _ => BitVec.eq_of_toFin_eq
  have hperm : ((List.finRange (2 ^ k)).filter fun n => BitVec.ofFin n ∈ l).Perm (l.map BitVec.toFin) := by
    refine (List.perm_ext_iff_of_nodup ((List.nodup_finRange _).filter _) hnodup).2 fun n => ?_
    simp only [List.mem_filter, List.mem_finRange, decide_eq_true_eq, true_and, List.mem_map]
    exact ⟨fun h => ⟨_, h, rfl⟩, fun ⟨_, h, hn⟩ => hn ▸ h⟩
  rw [List.countP_eq_length_filter, hperm.length_eq, List.length_map]

theorem countP_not_mem_eq {k : Nat} {l : List (BitVec k)} (hl : l.Nodup) :
    ((List.finRange (2 ^ k)).countP fun n => BitVec.ofFin n ∉ l) = 2 ^ k - l.length := by
  have hsum := List.length_eq_countP_add_countP (fun n => decide (BitVec.ofFin n ∈ l)) (l := List.finRange (2 ^ k))
  rw [countP_mem_eq_length hl, List.length_finRange] at hsum
  simp only [decide_eq_true_eq] at hsum
  omega

/-- Settles O56: `decodeWord_error_iff` is the equivalence, and each count is that of the sub-codes it refuses. -/
theorem exactlyTheIllegalWordsAreRefused : Obligations.ExactlyTheIllegalWordsAreRefused := by
  unfold Obligations.ExactlyTheIllegalWordsAreRefused
  refine ⟨decodeWord_error_iff, fun x y => ?_, fun x => ?_, fun x => ?_⟩
  · simp only [decodeWord_formatXYN8_none_iff]
    exact countP_mem_eq_length (l := illegalNibbles8) (by decide)
  · simp only [decodeWord_formatXKKE_none_iff]
    exact countP_not_mem_eq (l := subcodesE) (by decide)
  · simp only [decodeWord_formatXKKF_none_iff]
    exact countP_not_mem_eq (l := subcodesF) (by decide)

end Sys2Proof

/-! SYS and JP (spec 41_flow.md R90, R91), for O1 and O2: how category 0 and a zero-extended target read, then that
changing the program counter is changing nothing else. -/

namespace Sys2Proof

/-! ### Decoding -/

theorem decodeWord_of_cat0 {w : Word} (h : catOf w = 0x0#4) : decodeWord w = .ok (decode0 w) := by
  simp [decodeWord, h]

theorem decodeWord_of_cat1 {w : Word} (h : catOf w = 0x1#4) : decodeWord w = .ok (.jp (addr12Of w)) := by
  simp [decodeWord, h]

/-- A word in its own fields differs from `w` when its address differs from that of `w`. -/
theorem formatNNN_ne_of_addr12Of_ne {c : BitVec 4} {nnn : BitVec 12} {w : Word} (h : nnn ≠ addr12Of w) :
    formatNNN c nnn ≠ w := by
  rintro rfl
  exact h (addr12Of_formatNNN c nnn).symm

/-- 30_encoding.md R65: category 0 is SYS but for the two words of CLS and RET. -/
theorem decode0_formatNNN_of_ne {nnn : BitVec 12} (hcls : nnn ≠ 0x0E0#12) (hret : nnn ≠ 0x0EE#12) :
    decode0 (formatNNN 0x0#4 nnn) = .sys nnn := by
  have hE0 : formatNNN 0x0#4 nnn ≠ 0x00E0#16 := formatNNN_ne_of_addr12Of_ne hcls
  have hEE : formatNNN 0x0#4 nnn ≠ 0x00EE#16 := formatNNN_ne_of_addr12Of_ne hret
  rw [decode0, if_neg hE0, if_neg hEE, addr12Of_formatNNN]

namespace Machine

/-! ### Execution -/

theorem exec_sys (nnn : BitVec 12) (s : State) : exec (.sys nnn) s = .next s.advance := rfl

theorem exec_jp (nnn : BitVec 12) (s : State) : exec (.jp nnn) s = .next (s.goto (zext nnn)) := rfl

theorem toNat_zext {n : Nat} (hn : n ≤ 16) (b : BitVec n) : (zext b).toNat = b.toNat :=
  BitVec.toNat_setWidth_of_le hn

theorem onlyPc_goto (s : State) (a : Word) : OnlyPc s (s.goto a) := by
  simp [OnlyPc, OnlyRegs, KeepsRegs, KeepsIndex, KeepsStack, KeepsTimers, KeepsScreen, KeepsMemory, KeepsEngine]

end Machine

open Machine

/-- Settles O1: `decode0` tells only CLS and RET from SYS, and `advance` is a `goto`. -/
theorem sysIsInert : Obligations.SysIsInert := by
  intro nnn s
  constructor
  · intro hcls hret
    rw [decodeWord_of_cat0 (catOf_formatNNN _ _), decode0_formatNNN_of_ne hcls hret]
  · exact ⟨s.advance, exec_sys nnn s, s.advance_pc, onlyPc_goto s (s.pc + 2)⟩

/-- Settles O2: the target is zero-extended from 12 to 16 bits, so it keeps its value. -/
theorem jpGoesToItsTarget : Obligations.JpGoesToItsTarget := by
  intro nnn s
  constructor
  · rw [decodeWord_of_cat1 (catOf_formatNNN _ _), addr12Of_formatNNN]
  · exact ⟨s.goto (zext nnn), exec_jp nnn s, toNat_zext (by decide) nnn, onlyPc_goto s (zext nnn)⟩

end Sys2Proof

/-! The skips on an immediate and on a register (spec 42_skip.md R100 to R103), for O6 and O7: how their four categories
decode, then what `skipIf` does under a condition and under its opposite. -/

namespace Sys2Proof

/-! ### Decoding -/

theorem decodeWord_of_cat3 {w : Word} (h : catOf w = 0x3#4) : decodeWord w = .ok (.seImm (regXOf w) (imm8Of w)) := by
  simp [decodeWord, h]

theorem decodeWord_of_cat4 {w : Word} (h : catOf w = 0x4#4) : decodeWord w = .ok (.sneImm (regXOf w) (imm8Of w)) := by
  simp [decodeWord, h]

theorem decodeWord_of_cat5 {w : Word} (h : catOf w = 0x5#4) :
    decodeWord w = .ok (.seReg (regXOf w) (regYOf w) (nibbleOf w)) := by
  simp [decodeWord, h]

theorem decodeWord_of_cat9 {w : Word} (h : catOf w = 0x9#4) :
    decodeWord w = .ok (.sneReg (regXOf w) (regYOf w) (nibbleOf w)) := by
  simp [decodeWord, h]

namespace Machine

/-! ### Execution -/

theorem exec_seImm (x : Reg) (kk : Byte) (s : State) : exec (.seImm x kk) s = .next (s.skipIf (s.reg x == kk)) := rfl

theorem exec_sneImm (x : Reg) (kk : Byte) (s : State) : exec (.sneImm x kk) s = .next (s.skipIf (s.reg x != kk)) := rfl

theorem exec_seReg (x y : Reg) (n : BitVec 4) (s : State) :
    exec (.seReg x y n) s = .next (s.skipIf (s.reg x == s.reg y)) := rfl

theorem exec_sneReg (x y : Reg) (n : BitVec 4) (s : State) :
    exec (.sneReg x y n) s = .next (s.skipIf (s.reg x != s.reg y)) := rfl

theorem onlyPc_skipIf (s : State) (c : Bool) : OnlyPc s (s.skipIf c) :=
  onlyPc_goto s (if c then s.pc + 4 else s.pc + 2)

/-- An instruction that answers `skipIf c` skips by 4 under any condition that makes `c` true, advances by 2 under any
that makes it false, and changes the program counter alone. -/
theorem skips_of_exec_eq_skipIf {i : Instr} {s : State} {c : Bool} {p q : Prop} (hexec : exec i s = .next (s.skipIf c))
    (hskip : p → c = true) (hpass : q → c = false) :
    ∃ t, exec i s = .next t ∧ (p → t.pc = s.pc + 4) ∧ (q → t.pc = s.pc + 2) ∧ OnlyPc s t := by
  refine ⟨s.skipIf c, hexec, fun hp => ?_, fun hq => ?_, onlyPc_skipIf s c⟩
  · simp [hskip hp]
  · simp [hpass hq]

end Machine

open Machine

/-- Settles O6: SE and SNE answer `skipIf` of the comparison with `kk` and of its negation. -/
theorem skipsOnImmediates : Obligations.SkipsOnImmediates := by
  intro x kk s
  refine ⟨?_, ?_, ?_, ?_⟩
  · rw [decodeWord_of_cat3 (catOf_formatXKK _ _ _), regXOf_formatXKK, imm8Of_formatXKK]
  · rw [decodeWord_of_cat4 (catOf_formatXKK _ _ _), regXOf_formatXKK, imm8Of_formatXKK]
  · exact skips_of_exec_eq_skipIf (exec_seImm x kk s) beq_iff_eq.2 beq_eq_false_iff_ne.2
  · exact skips_of_exec_eq_skipIf (exec_sneImm x kk s) bne_iff_ne.2 bne_eq_false_iff_eq.2

/-- Settles O7: SE and SNE answer `skipIf` of the comparison of the registers and of its negation, with no use of the
low nibble. -/
theorem skipsOnRegisters : Obligations.SkipsOnRegisters := by
  intro x y n s
  refine ⟨?_, ?_, ?_, ?_⟩
  · rw [decodeWord_of_cat5 (catOf_formatXYN _ _ _ _), regXOf_formatXYN, regYOf_formatXYN, nibbleOf_formatXYN]
  · rw [decodeWord_of_cat9 (catOf_formatXYN _ _ _ _), regXOf_formatXYN, regYOf_formatXYN, nibbleOf_formatXYN]
  · exact skips_of_exec_eq_skipIf (exec_seReg x y n s) beq_iff_eq.2 beq_eq_false_iff_ne.2
  · exact skips_of_exec_eq_skipIf (exec_sneReg x y n s) bne_iff_ne.2 bne_eq_false_iff_eq.2

end Sys2Proof

/-! The loads and operations that write one register and no flag (spec 43_load_alu.md R110, R111, R113 to R116), for O8
and O9: how their words decode, then that a register write and `advance` change that register and the program counter
alone. -/

namespace Sys2Proof

/-! ### Decoding -/

theorem decodeWord_of_cat6 {w : Word} (h : catOf w = 0x6#4) : decodeWord w = .ok (.ldImm (regXOf w) (imm8Of w)) := by
  simp [decodeWord, h]

theorem decodeWord_of_cat7 {w : Word} (h : catOf w = 0x7#4) : decodeWord w = .ok (.addImm (regXOf w) (imm8Of w)) := by
  simp [decodeWord, h]

theorem decode8_of_nibble0 {w : Word} (h : nibbleOf w = 0x0#4) : decode8 w = .ok (.ldReg (regXOf w) (regYOf w)) := by
  simp [decode8, h]

theorem decode8_of_nibble1 {w : Word} (h : nibbleOf w = 0x1#4) : decode8 w = .ok (.orReg (regXOf w) (regYOf w)) := by
  simp [decode8, h]

theorem decode8_of_nibble2 {w : Word} (h : nibbleOf w = 0x2#4) : decode8 w = .ok (.andReg (regXOf w) (regYOf w)) := by
  simp [decode8, h]

theorem decode8_of_nibble3 {w : Word} (h : nibbleOf w = 0x3#4) : decode8 w = .ok (.xorReg (regXOf w) (regYOf w)) := by
  simp [decode8, h]

/-- A category-8 word decodes as its low nibble says, to an operation `op` on its two registers. -/
theorem decodeWord_formatXYN8 {n : BitVec 4} {op : Reg → Reg → Instr} (x y : Reg)
    (h : ∀ {w : Word}, nibbleOf w = n → decode8 w = .ok (op (regXOf w) (regYOf w))) :
    decodeWord (formatXYN 0x8#4 x y n) = .ok (op x y) := by
  rw [decodeWord_of_cat8 (catOf_formatXYN _ _ _ _), h (nibbleOf_formatXYN _ _ _ _), regXOf_formatXYN, regYOf_formatXYN]

namespace Machine

/-! ### Execution -/

theorem exec_ldImm (x : Reg) (kk : Byte) (s : State) : exec (.ldImm x kk) s = .next (s.setReg x kk).advance := rfl

theorem exec_addImm (x : Reg) (kk : Byte) (s : State) :
    exec (.addImm x kk) s = .next (s.setReg x (addResult (s.reg x) kk)).advance := rfl

theorem exec_ldReg (x y : Reg) (s : State) : exec (.ldReg x y) s = .next (s.setReg x (s.reg y)).advance := rfl

theorem exec_orReg (x y : Reg) (s : State) :
    exec (.orReg x y) s = .next (s.setReg x (s.reg x ||| s.reg y)).advance := rfl

theorem exec_andReg (x y : Reg) (s : State) :
    exec (.andReg x y) s = .next (s.setReg x (s.reg x &&& s.reg y)).advance := rfl

theorem exec_xorReg (x y : Reg) (s : State) :
    exec (.xorReg x y) s = .next (s.setReg x (s.reg x ^^^ s.reg y)).advance := rfl

theorem toNat_addResult (a b : Byte) : (addResult a b).toNat = (a.toNat + b.toNat) % 256 := by
  simp [addResult]

theorem onlyRegs_setReg_advance (s : State) (x : Reg) (b : Byte) : OnlyRegs s (s.setReg x b).advance [x] := by
  have hregs : KeepsRegs s (s.setReg x b).advance [x] := fun _ hr =>
    s.reg_setReg_of_ne (List.ne_of_not_mem_cons hr) b
  refine ⟨hregs, ?_⟩
  simp [KeepsIndex, KeepsStack, KeepsTimers, KeepsScreen, KeepsMemory, KeepsEngine]

/-- An instruction that answers `setReg x b` and `advance` leaves `b` in `V[x]`, advances by 2, and changes no other
register and nothing else. -/
theorem writesReg_of_exec_eq_setReg {i : Instr} {s : State} {x : Reg} {b : Byte}
    (hexec : exec i s = .next (s.setReg x b).advance) :
    ∃ t, exec i s = .next t ∧ t.reg x = b ∧ t.pc = s.pc + 2 ∧ OnlyRegs s t [x] :=
  ⟨(s.setReg x b).advance, hexec, s.reg_setReg_self x b, State.advance_pc _, onlyRegs_setReg_advance s x b⟩

end Machine

open Machine

/-- Settles O8: LD and ADD answer `setReg` of `kk` and of the sum modulo 256, which touches `V[15]` only as `V[x]`. -/
theorem loadAndAddImmediate : Obligations.LoadAndAddImmediate := by
  intro x kk s
  refine ⟨?_, ?_, ?_, ?_⟩
  · rw [decodeWord_of_cat6 (catOf_formatXKK _ _ _), regXOf_formatXKK, imm8Of_formatXKK]
  · rw [decodeWord_of_cat7 (catOf_formatXKK _ _ _), regXOf_formatXKK, imm8Of_formatXKK]
  · exact writesReg_of_exec_eq_setReg (exec_ldImm x kk s)
  · obtain ⟨t, hexec, hsum, hpc, honly⟩ := writesReg_of_exec_eq_setReg (exec_addImm x kk s)
    exact ⟨t, hexec, by rw [hsum, toNat_addResult], hpc, honly⟩

/-- Settles O9: each of the four answers `setReg`, and the bitwise operations are those of `BitVec`, bit by bit. -/
theorem moveOrAndXor : Obligations.MoveOrAndXor := by
  intro x y s
  refine ⟨?_, ?_, ?_, ?_, ?_, ?_, ?_, ?_⟩
  · exact decodeWord_formatXYN8 x y decode8_of_nibble0
  · exact decodeWord_formatXYN8 x y decode8_of_nibble1
  · exact decodeWord_formatXYN8 x y decode8_of_nibble2
  · exact decodeWord_formatXYN8 x y decode8_of_nibble3
  · exact writesReg_of_exec_eq_setReg (exec_ldReg x y s)
  · obtain ⟨t, hexec, hor, hpc, honly⟩ := writesReg_of_exec_eq_setReg (exec_orReg x y s)
    exact ⟨t, hexec, fun b _ => by rw [hor, BitVec.getLsbD_or], hpc, honly⟩
  · obtain ⟨t, hexec, hand, hpc, honly⟩ := writesReg_of_exec_eq_setReg (exec_andReg x y s)
    exact ⟨t, hexec, fun b _ => by rw [hand, BitVec.getLsbD_and], hpc, honly⟩
  · obtain ⟨t, hexec, hxor, hpc, honly⟩ := writesReg_of_exec_eq_setReg (exec_xorReg x y s)
    exact ⟨t, hexec, fun b _ => by rw [hxor, BitVec.getLsbD_xor], hpc, honly⟩

end Sys2Proof

/-! LD I (spec 44_index_memory.md R131), for O14: how category A decodes, then that writing the index register and
`advance` change that register and the program counter alone. -/

namespace Sys2Proof

/-! ### Decoding -/

theorem decodeWord_of_catA {w : Word} (h : catOf w = 0xA#4) : decodeWord w = .ok (.ldI (addr12Of w)) := by
  simp [decodeWord, h]

namespace Machine

/-! ### Execution -/

theorem exec_ldI (nnn : BitVec 12) (s : State) : exec (.ldI nnn) s = .next (s.setI (zext nnn)).advance := rfl

theorem onlyIndex_setI_advance (s : State) (a : Word) : OnlyIndex s (s.setI a).advance := by
  simp [OnlyIndex, KeepsRegs, KeepsStack, KeepsTimers, KeepsScreen, KeepsMemory, KeepsEngine]

end Machine

open Machine

/-- Settles O14: LD I answers `setI` of the address, which zero-extension from 12 to 16 bits keeps. -/
theorem loadIndexWritesTheAddress : Obligations.LoadIndexWritesTheAddress := by
  intro nnn s
  constructor
  · rw [decodeWord_of_catA (catOf_formatNNN _ _), addr12Of_formatNNN]
  · have hi : (s.setI (zext nnn)).advance.i.toNat = nnn.toNat := toNat_zext (by decide) nnn
    have hpc : (s.setI (zext nnn)).advance.pc = s.pc + 2 := State.advance_pc _
    exact ⟨(s.setI (zext nnn)).advance, exec_ldI nnn s, hi, hpc, onlyIndex_setI_advance s (zext nnn)⟩

end Sys2Proof

/-! The timer instructions (spec 45_timer_key.md R146 to R148), for O22: how their three words decode, what a tick and
the sound output make of a timer, then that a timer write and `advance` change that timer and the program counter
alone. -/

namespace Sys2Proof

/-! ### Decoding -/

theorem decodeF_of_imm07 {w : Word} (h : imm8Of w = 0x07#8) : decodeF w = .ok (.ldVxDT (regXOf w)) := by
  simp [decodeF, h]

theorem decodeF_of_imm15 {w : Word} (h : imm8Of w = 0x15#8) : decodeF w = .ok (.ldDTVx (regXOf w)) := by
  simp [decodeF, h]

theorem decodeF_of_imm18 {w : Word} (h : imm8Of w = 0x18#8) : decodeF w = .ok (.ldSTVx (regXOf w)) := by
  simp [decodeF, h]

/-- A category-F word decodes as its low byte says, to an operation `op` on its register. -/
theorem decodeWord_formatXSSF {kk : Byte} {op : Reg → Instr} (x : Reg)
    (h : ∀ {w : Word}, imm8Of w = kk → decodeF w = .ok (op (regXOf w))) :
    decodeWord (formatXSS 0xF#4 x kk) = .ok (op x) := by
  rw [decodeWord_of_catF (catOf_formatXSS _ _ _), h (imm8Of_formatXSS _ _ _), regXOf_formatXSS]

namespace Machine

/-! ### The timers -/

/-- A tick is a truncated subtraction: a nonzero byte does not wrap when it is decremented. -/
theorem toNat_tickTimer (t : Byte) : (tickTimer t).toNat = t.toNat - 1 := by
  by_cases h : t = 0
  · simp [tickTimer, h]
  · rw [tickTimer, if_neg h]
    bv_omega

theorem soundActive_eq_true_iff (s : State) : s.soundActive = true ↔ s.st ≠ 0x00 := bne_iff_ne

/-! ### Execution -/

theorem exec_ldVxDT (x : Reg) (s : State) : exec (.ldVxDT x) s = .next (s.setReg x s.dt).advance := rfl

theorem exec_ldDTVx (x : Reg) (s : State) : exec (.ldDTVx x) s = .next (s.setDt (s.reg x)).advance := rfl

theorem exec_ldSTVx (x : Reg) (s : State) : exec (.ldSTVx x) s = .next (s.setSt (s.reg x)).advance := rfl

/-- Everything but the two timers and the program counter. -/
def OnlyTimers (s t : State) : Prop :=
  KeepsRegs s t [] ∧ KeepsIndex s t ∧ KeepsStack s t ∧ KeepsScreen s t ∧ KeepsMemory s t ∧ KeepsEngine s t

theorem onlyTimers_setDt_advance (s : State) (b : Byte) : OnlyTimers s (s.setDt b).advance := by
  simp [OnlyTimers, KeepsRegs, KeepsIndex, KeepsStack, KeepsScreen, KeepsMemory, KeepsEngine]

theorem onlyTimers_setSt_advance (s : State) (b : Byte) : OnlyTimers s (s.setSt b).advance := by
  simp [OnlyTimers, KeepsRegs, KeepsIndex, KeepsStack, KeepsScreen, KeepsMemory, KeepsEngine]

end Machine

open Machine

/-- Settles O22: the read of `DT` is a register write, each timer write keeps the other timer, and the tick and the
sound output are those of the value written. -/
theorem timerInstructionsMoveTheTimers : Obligations.TimerInstructionsMoveTheTimers := by
  intro x s
  refine ⟨?_, ?_, ?_, ?_, ?_, ?_⟩
  · exact decodeWord_formatXSSF x decodeF_of_imm07
  · exact decodeWord_formatXSSF x decodeF_of_imm15
  · exact decodeWord_formatXSSF x decodeF_of_imm18
  · exact writesReg_of_exec_eq_setReg (exec_ldVxDT x s)
  · have htick : (s.setDt (s.reg x)).advance.endOfFrame.dt.toNat = (s.reg x).toNat - 1 := toNat_tickTimer (s.reg x)
    exact ⟨(s.setDt (s.reg x)).advance, exec_ldDTVx x s, rfl, rfl, State.advance_pc _, htick,
      onlyTimers_setDt_advance s (s.reg x)⟩
  · have hsound : (s.setSt (s.reg x)).advance.soundActive = true ↔ s.reg x ≠ 0x00 := soundActive_eq_true_iff _
    exact ⟨(s.setSt (s.reg x)).advance, exec_ldSTVx x s, rfl, rfl, State.advance_pc _, hsound,
      onlyTimers_setSt_advance s (s.reg x)⟩

end Sys2Proof

/-! The display (spec 46_display.md R160, R161), for O26 and O29: CLS writes the framebuffer and the program counter
alone; another framebuffer passes unread through every instruction but CLS and DRW, so that they also keep it; and the
result of DRW depends on it through the flag register at most. -/

namespace Sys2Proof.Machine

/-! ### Clearing the screen -/

theorem exec_cls (s : State) : exec .cls s = .next (s.setFb Framebuffer.blank).advance := rfl

/-- Everything but the framebuffer and the program counter. -/
def OnlyScreen (s t : State) : Prop :=
  KeepsRegs s t [] ∧ KeepsIndex s t ∧ KeepsStack s t ∧ KeepsTimers s t ∧ KeepsMemory s t ∧ KeepsEngine s t

theorem onlyScreen_setFb_advance (s : State) (f : Framebuffer) : OnlyScreen s (s.setFb f).advance := by
  simp [OnlyScreen, KeepsRegs, KeepsIndex, KeepsStack, KeepsTimers, KeepsMemory, KeepsEngine]

/-! ### The stack, the access checks and the inputs do not read the framebuffer -/

theorem State.setFb_self (s : State) : s.setFb s.fb = s := rfl

theorem State.push_setFb (s : State) (g : Framebuffer) (a : Word) :
    (s.setFb g).push a = (s.push a).map fun t => t.setFb g := by
  by_cases h : s.sp.val < 16
  · simp [State.push, State.setFb, h]
  · simp [State.push, h]

theorem State.pop_setFb (s : State) (g : Framebuffer) :
    (s.setFb g).pop = s.pop.map fun p => (p.1, p.2.setFb g) := by
  by_cases h : 0 < s.sp.val
  · simp [State.pop, State.setFb, h]
  · simp [State.pop, h]

theorem State.loadFault_setFb (s : State) (g : Framebuffer) (n : Nat) : (s.setFb g).loadFault n = s.loadFault n := rfl

theorem State.storeFault_setFb (s : State) (g : Framebuffer) (n : Nat) : (s.setFb g).storeFault n = s.storeFault n := rfl

theorem State.env_setFb (s : State) (g : Framebuffer) : (s.setFb g).env = s.env := rfl

/-! ### Every instruction but CLS and DRW -/

section
variable {s t : State} (g : Framebuffer)

/-- With another framebuffer in place the answer is the same but for that framebuffer, which passes unchanged. -/
theorem exec_setFb {i : Instr} (hdrw : ∀ x y n, i ≠ .drw x y n) (hcls : i ≠ .cls) (h : exec i s = .next t) :
    exec i (s.setFb g) = .next (t.setFb g) := by
  cases i
  case cls => exact absurd rfl hcls
  case drw x y n => exact absurd rfl (hdrw x y n)
  -- the stack answers as at `s`, the framebuffer of its state apart
  case call | ret =>
    simp only [exec, execCall, execRet, State.push_setFb, State.pop_setFb, State.setFb_pc] at h ⊢
    split at h
    all_goals
      rename_i hstack
      rw [hstack]
      cases h
      rfl
  -- the keys and the checks answer as at `s`
  case ldVxK | ldB | ldMemVx | ldVxMem =>
    simp only [exec, execLdVxK, execLdB, execLdMemVx, execLdVxMem, State.env_setFb, State.storeFault_setFb,
      State.loadFault_setFb] at h ⊢
    split at h
    all_goals
      cases h
      rfl
  -- the others answer one expression in the fields they read
  all_goals
    cases h
    rfl

/-- The state's own framebuffer is one that passes unchanged. -/
theorem exec_fb {i : Instr} (hdrw : ∀ x y n, i ≠ .drw x y n) (hcls : i ≠ .cls) (h : exec i s = .next t) :
    t.fb = s.fb := by
  have hself : exec i (s.setFb s.fb) = .next (t.setFb s.fb) := exec_setFb s.fb hdrw hcls h
  rw [State.setFb_self] at hself
  have ht : t = t.setFb s.fb := Host.Outcome.next.inj (h.symm.trans hself)
  rw [ht, State.setFb_fb]

theorem exec_cls_setFb (h : exec .cls s = .next t) : exec .cls (s.setFb g) = .next t := by
  cases h
  rfl

end

/-! ### Drawing -/

theorem exec_drw_of_loadFault_eq_some {s : State} {n : BitVec 4} {c : FaultCause} {a : Nat} (x y : Reg)
    (h : s.loadFault n.toNat = some (c, a)) :
    exec (.drw x y n) s = .next (s.raise c (some (encode (.drw x y n))) (some a)) := by
  simp only [exec, execDrw, h]

/-- What a draw at `s` leaves, with its checks passed. -/
def drawn (x y : Reg) (n : BitVec 4) (s : State) : State :=
  let d := drawSprite (s.reg x).toNat (s.reg y).toNat (s.mem.readBytes s.i.toNat n.toNat) s.fb
  ((s.setFb d.1).setReg flagReg (flagByte d.2)).advance

theorem exec_drw_of_loadFault_eq_none {s : State} {n : BitVec 4} (x y : Reg) (h : s.loadFault n.toNat = none) :
    exec (.drw x y n) s = .next (drawn x y n s) := by
  simp only [exec, execDrw, drawn, h]

/-- `u` is `t` but for the framebuffer and the flag register. -/
def SameButScreenAndFlag (t u : State) : Prop := u = { t with fb := u.fb, v := t.v.set 15 (u.reg 15) }

theorem sameButScreenAndFlag_setFb (t : State) (g : Framebuffer) : SameButScreenAndFlag t (t.setFb g) := by
  simp [SameButScreenAndFlag, State.setFb, State.reg]

theorem sameButScreenAndFlag_setFb_setReg_advance (s : State) (f f' : Framebuffer) (b b' : Byte) :
    SameButScreenAndFlag ((s.setFb f).setReg flagReg b).advance ((s.setFb f').setReg flagReg b').advance := by
  simp [SameButScreenAndFlag, State.setFb, State.setReg, State.advance, State.goto, State.reg, flagReg]

/-- The checks of a draw do not read the framebuffer, so both draws fault, with one record, or both draw. -/
theorem exec_drw_setFb {s t : State} {x y : Reg} {n : BitVec 4} (g : Framebuffer) (h : exec (.drw x y n) s = .next t) :
    ∃ u, exec (.drw x y n) (s.setFb g) = .next u ∧ SameButScreenAndFlag t u := by
  cases hfault : s.loadFault n.toNat with
  | some p =>
    rw [exec_drw_of_loadFault_eq_some x y hfault] at h
    cases h
    exact ⟨_, exec_drw_of_loadFault_eq_some (s := s.setFb g) x y hfault, sameButScreenAndFlag_setFb _ g⟩
  | none =>
    rw [exec_drw_of_loadFault_eq_none x y hfault] at h
    cases h
    exact ⟨_, exec_drw_of_loadFault_eq_none (s := s.setFb g) x y hfault,
      sameButScreenAndFlag_setFb_setReg_advance s _ _ _ _⟩

end Sys2Proof.Machine

namespace Sys2Proof

open Machine

/-- Settles O26: CLS answers `setFb` of the blank framebuffer, which writes no register. -/
theorem clsTurnsEveryPixelOff : Obligations.ClsTurnsEveryPixelOff := by
  constructor
  · decide
  · intro s
    exact ⟨(s.setFb Framebuffer.blank).advance, exec_cls s, Framebuffer.px_blank, State.advance_pc _,
      onlyScreen_setFb_advance s Framebuffer.blank⟩

/-- Settles O29: all but CLS and DRW pass any framebuffer on unread, their own included; CLS replaces it; DRW adds the
flag. -/
theorem framebufferIsForClsAndDrw : Obligations.FramebufferIsForClsAndDrw := by
  intro i s t g h
  refine ⟨fun hdrw hcls => exec_fb hdrw hcls h, fun hdrw => ?_, ?_⟩
  · by_cases hcls : i = .cls
    · subst hcls
      exact exec_cls_setFb g h
    · rw [if_neg hcls]
      exact exec_setFb g hdrw hcls h
  · rintro ⟨x, y, n, rfl⟩
    exact exec_drw_setFb g h

end Sys2Proof

/-! Illegal words (spec 60_exceptions.md R172), for O35: the faults that an executed instruction can raise, the step by
what was fetched and decoded, then what the slot accounting keeps of the step's run state and fault record. -/

namespace Sys2Proof.Machine

/-! ### The faults of an executed instruction -/

theorem State.loadFault_cause {s : State} {n a : Nat} {c : FaultCause} (h : s.loadFault n = some (c, a)) :
    c = .addrBounds := by
  obtain ⟨_, _, _, hread, _⟩ := firstFault_eq_some.1 h
  unfold readFault at hread
  split at hread
  · exact (Option.some.inj hread).symm
  · contradiction

theorem State.storeFault_cause {s : State} {n a : Nat} {c : FaultCause} (h : s.storeFault n = some (c, a)) :
    c = .addrBounds ∨ c = .writeProtect := by
  obtain ⟨_, _, _, hwrite, _⟩ := firstFault_eq_some.1 h
  unfold writeFault at hwrite
  split at hwrite
  · exact .inl (Option.some.inj hwrite).symm
  · split at hwrite
    · exact .inr (Option.some.inj hwrite).symm
    · contradiction

/-- An instruction meets the condition of a fault at `s`, with the fault's cause and info (60_exceptions.md R171). -/
inductive ExecFaults (s : State) : Instr → FaultCause → Nat → Prop
  | overflow (nnn : BitVec 12) (h : s.sp.val = 16) : ExecFaults s (.call nnn) .stackOverflow s.sp.val
  | underflow (h : s.sp.val = 0) : ExecFaults s .ret .stackUnderflow s.sp.val
  | load {i : Instr} {c : FaultCause} {a : Nat} (h : s.loadFault (loadLength i) = some (c, a)) : ExecFaults s i c a
  | store {i : Instr} {c : FaultCause} {a : Nat} (h : s.storeFault (storeLength i) = some (c, a)) : ExecFaults s i c a

theorem ExecFaults.cause_ne_decodeFault {s : State} {i : Instr} {c : FaultCause} {a : Nat} (h : ExecFaults s i c a) :
    c ≠ .decodeFault := by
  cases h with
  | overflow => decide
  | underflow => decide
  | load h => simp [State.loadFault_cause h]
  | store h =>
    obtain rfl | rfl := State.storeFault_cause h
    · decide
    · decide

/-- An executed instruction changes the run state only by the entry of a fault whose condition it meets. -/
theorem exec_eq_raise_of_run_ne {i : Instr} {s t : State} (h : exec i s = .next t) (hrun : t.run ≠ s.run) :
    ∃ c a, ExecFaults s i c a ∧ t = s.raise c (some (encode i)) (some a) := by
  cases i
  case call nnn =>
    simp only [exec, execCall] at h
    split at h
    next hpush =>
      obtain ⟨_, rfl⟩ := State.push_eq_some hpush
      cases h
      exact absurd rfl hrun
    next hpush =>
      cases h
      exact ⟨_, _, .overflow nnn (State.push_eq_none.1 hpush), rfl⟩
  case ret =>
    simp only [exec, execRet] at h
    split at h
    next hpop =>
      obtain ⟨_, _, rfl⟩ := State.pop_eq_some hpop
      cases h
      exact absurd rfl hrun
    next hpop =>
      cases h
      exact ⟨_, _, .underflow (State.pop_eq_none.1 hpop), rfl⟩
  case drw | ldVxMem =>
    simp only [exec, execDrw, execLdVxMem] at h
    split at h
    next hfault =>
      cases h
      exact ⟨_, _, .load hfault, rfl⟩
    next =>
      cases h
      exact absurd rfl hrun
  case ldB | ldMemVx =>
    simp only [exec, execLdB, execLdMemVx] at h
    split at h
    next hfault =>
      cases h
      exact ⟨_, _, .store hfault, rfl⟩
    next =>
      cases h
      exact absurd rfl hrun
  -- the key wait leaves the run state alone with and without a key
  case ldVxK =>
    simp only [exec, execLdVxK] at h
    split at h
    all_goals
      cases h
      exact absurd rfl hrun
  -- the others have no fault
  all_goals
    cases h
    exact absurd rfl hrun

/-! ### The step by what was fetched and decoded -/

theorem stepOnce_of_fetch_eq_none {s : State} (h : s.fetch = none) :
    stepOnce s = .next (s.raise .pcBounds none (some s.pc.toNat)) := by
  simp only [stepOnce, h]

theorem stepOnce_of_decodeWord_eq_error {s : State} {w : Word} {e : DecodeError} (hw : s.fetch = some w)
    (he : decodeWord w = .error e) : stepOnce s = .next (s.raise .decodeFault (some w) (some w.toNat)) := by
  simp only [stepOnce, hw, he]

theorem stepOnce_of_decodeWord_eq_ok {s : State} {w : Word} {i : Instr} (hw : s.fetch = some w)
    (hi : decodeWord w = .ok i) : stepOnce s = exec i s := by
  simp only [stepOnce, hw, hi]

/-- A step that halts with a DecodeFault is the fault entry for an illegal word. -/
theorem stepOnce_decodeFault {s u : State} {f : FaultRecord} (h : stepOnce s = .next u) (hs : s.run = .running)
    (hu : u.run ≠ .running) (hf : u.fault = some f) (hc : f.cause = .decodeFault) :
    ∃ w e, s.fetch = some w ∧ decodeWord w = .error e ∧ f.instr = some w ∧ f.pc = s.pc := by
  cases hfetch : s.fetch with
  | none =>
    cases (stepOnce_of_fetch_eq_none hfetch).symm.trans h
    cases hf
    cases hc
  | some w =>
    cases hdecode : decodeWord w with
    | error e =>
      cases (stepOnce_of_decodeWord_eq_error hfetch hdecode).symm.trans h
      cases hf
      exact ⟨w, e, rfl, hdecode, rfl, rfl⟩
    | ok i =>
      have hexec : exec i s = .next u := (stepOnce_of_decodeWord_eq_ok hfetch hdecode).symm.trans h
      obtain ⟨c, a, hfaults, rfl⟩ := exec_eq_raise_of_run_ne hexec (hs ▸ hu)
      cases hf
      exact absurd hc hfaults.cause_ne_decodeFault

/-! ### The slot around the step -/

@[simp] theorem endSlot_run (yielded : Bool) (t : State) : (endSlot yielded t).run = t.run := by
  unfold endSlot
  split_ifs <;> rfl

@[simp] theorem endSlot_fault (yielded : Bool) (t : State) : (endSlot yielded t).fault = t.fault := by
  unfold endSlot
  split_ifs <;> rfl

/-- The transition that takes a step is that step with the slot accounting and one input taken. -/
theorem step_of_takesStep {s u : State} (hs : s.TakesStep) (h : stepOnce s = .next u) :
    step s = .next (endSlot (yieldsNow s) u).takeInput := by
  obtain ⟨hrun, hreset, hstop, hframe⟩ := hs
  have hslots : s.cfg.stepsPerFrame ≠ 0 := by omega
  unfold step transition
  split
  next image rest hinputs => exact absurd hinputs (hreset image rest)
  next => simp [hrun, slot, hstop, hslots, h]

end Sys2Proof.Machine

namespace Sys2Proof

open Machine

/-- Settles O35: an illegal word is a fault entry that the slot accounting keeps, and neither the fetch fault nor an
executed instruction has the cause DecodeFault. -/
theorem illegalWordHalts : Obligations.IllegalWordHalts := by
  intro s hs
  constructor
  · intro w e hw he
    have hstep := step_of_takesStep hs (stepOnce_of_decodeWord_eq_error hw he)
    exact ⟨_, { cause := .decodeFault, pc := s.pc, instr := some w, info := some w.toNat }, hstep, by simp, by simp,
      rfl, rfl, rfl⟩
  · intro t f ht hrun hf hc
    obtain ⟨u, hu⟩ := stepOnce_answers s
    cases (step_of_takesStep hs hu).symm.trans ht
    simp only [State.takeInput_run, State.takeInput_fault, endSlot_run, endSlot_fault] at hrun hf
    exact stepOnce_decodeFault hu hs.1 hrun hf hc

end Sys2Proof

/-! Decoder and encoder as inverses (spec 30_encoding.md R60 to R66), for O54, O55 and O58: each format read back from
its fields, then the words that the encoder makes, then the words that the decoder accepts. -/

namespace Sys2Proof

/-! ### Decoding an encoded instruction -/

section
variable {c : BitVec 4} (x y : Reg)

/-- A category that selects one operation on the 12-bit address decodes to it. -/
theorem decodeWord_formatNNN {op : BitVec 12 → Instr} (nnn : BitVec 12)
    (h : ∀ {w : Word}, catOf w = c → decodeWord w = .ok (op (addr12Of w))) :
    decodeWord (formatNNN c nnn) = .ok (op nnn) := by
  rw [h (catOf_formatNNN _ _), addr12Of_formatNNN]

/-- A category that selects one operation on a register and a byte decodes to it. -/
theorem decodeWord_formatXKK {op : Reg → Byte → Instr} (kk : Byte)
    (h : ∀ {w : Word}, catOf w = c → decodeWord w = .ok (op (regXOf w) (imm8Of w))) :
    decodeWord (formatXKK c x kk) = .ok (op x kk) := by
  rw [h (catOf_formatXKK _ _ _), regXOf_formatXKK, imm8Of_formatXKK]

/-- A category that selects one operation on two registers and a nibble decodes to it. -/
theorem decodeWord_formatXYN {op : Reg → Reg → BitVec 4 → Instr} (n : BitVec 4)
    (h : ∀ {w : Word}, catOf w = c → decodeWord w = .ok (op (regXOf w) (regYOf w) (nibbleOf w))) :
    decodeWord (formatXYN c x y n) = .ok (op x y n) := by
  rw [h (catOf_formatXYN _ _ _ _), regXOf_formatXYN, regYOf_formatXYN, nibbleOf_formatXYN]

/-- A category-E word decodes as its low byte says, to an operation `op` on its register. -/
theorem decodeWord_formatXSSE {kk : Byte} {op : Reg → Instr}
    (h : ∀ {w : Word}, imm8Of w = kk → decodeE w = .ok (op (regXOf w))) :
    decodeWord (formatXSS 0xE#4 x kk) = .ok (op x) := by
  rw [decodeWord_of_catE (catOf_formatXSS _ _ _), h (imm8Of_formatXSS _ _ _), regXOf_formatXSS]

end

/-- The decoder gives back every well-formed instruction from its word. -/
theorem decodeWord_encode {i : Instr} (hwf : i.wf = true) : decodeWord (encode i) = .ok i := by
  cases i
  case cls | ret => decide
  case sys nnn =>
    obtain ⟨hcls, hret⟩ : nnn ≠ 0x0E0#12 ∧ nnn ≠ 0x0EE#12 := by simpa [Instr.wf] using hwf
    rw [encode, decodeWord_of_cat0 (catOf_formatNNN _ _), decode0_formatNNN_of_ne hcls hret]
  case jp | call | ldI | jpV0 => exact decodeWord_formatNNN _ fun h => by simp [decodeWord, h]
  case seImm | sneImm | ldImm | addImm | rnd => exact decodeWord_formatXKK _ _ fun h => by simp [decodeWord, h]
  case seReg | sneReg | drw => exact decodeWord_formatXYN _ _ _ fun h => by simp [decodeWord, h]
  case ldReg | orReg | andReg | xorReg | addReg | subReg | shr | subnReg | shl =>
    exact decodeWord_formatXYN8 _ _ fun h => by simp [decode8, h]
  case skp | sknp => exact decodeWord_formatXSSE _ fun h => by simp [decodeE, h]
  case ldVxDT | ldVxK | ldDTVx | ldSTVx | addI | ldF | ldB | ldMemVx | ldVxMem =>
    exact decodeWord_formatXSSF _ fun h => by simp [decodeF, h]

/-! ### Encoding a decoded instruction -/

/-- `i` stands for `w`: its encoding is `w`, and it is well-formed. -/
def StandsFor (i : Instr) (w : Word) : Prop := encode i = w ∧ i.wf = true

theorem formatNNN_of_catOf {w : Word} {c : BitVec 4} (hc : (catOf w).toNat = c.toNat) :
    formatNNN c (addr12Of w) = w := by
  rw [← BitVec.eq_of_toNat_eq hc, formatNNN_fields]

theorem formatXKK_of_catOf {w : Word} {c : BitVec 4} (hc : (catOf w).toNat = c.toNat) :
    formatXKK c (regXOf w) (imm8Of w) = w := by
  rw [← BitVec.eq_of_toNat_eq hc, formatXKK_fields]

theorem formatXYN_of_catOf {w : Word} {c : BitVec 4} (hc : (catOf w).toNat = c.toNat) :
    formatXYN c (regXOf w) (regYOf w) (nibbleOf w) = w := by
  rw [← BitVec.eq_of_toNat_eq hc, formatXYN_fields]

theorem decode0_standsFor {w : Word} (hc : (catOf w).toNat = 0) : StandsFor (decode0 w) w := by
  have hw : formatNNN 0x0#4 (addr12Of w) = w := formatNNN_of_catOf hc
  unfold decode0
  split_ifs with hcls hret
  · exact ⟨hcls.symm, rfl⟩
  · exact ⟨hret.symm, rfl⟩
  · have hE0 : addr12Of w ≠ 0x0E0#12 := fun h => hcls (by rw [← hw, h]; rfl)
    have hEE : addr12Of w ≠ 0x0EE#12 := fun h => hret (by rw [← hw, h]; rfl)
    exact ⟨hw, by simp [Instr.wf, hE0, hEE]⟩

theorem formatXYN_of_subcode {w : Word} {c n : BitVec 4} (hc : (catOf w).toNat = c.toNat)
    (hn : (nibbleOf w).toNat = n.toNat) : formatXYN c (regXOf w) (regYOf w) n = w := by
  rw [← BitVec.eq_of_toNat_eq hn, formatXYN_of_catOf hc]

theorem formatXSS_of_subcode {w : Word} {c : BitVec 4} {sub8 : Byte} (hc : (catOf w).toNat = c.toNat)
    (hsub : (imm8Of w).toNat = sub8.toNat) : formatXSS c (regXOf w) sub8 = w := by
  rw [← BitVec.eq_of_toNat_eq hsub]
  exact formatXKK_of_catOf hc

theorem decode8_standsFor {w : Word} {i : Instr} (hc : (catOf w).toNat = 8) (h : decode8 w = .ok i) :
    StandsFor i w := by
  unfold decode8 at h
  split at h
  case h_10 => cases h
  all_goals
    rename_i hn
    cases h
    exact ⟨formatXYN_of_subcode hc hn, rfl⟩

theorem decodeE_standsFor {w : Word} {i : Instr} (hc : (catOf w).toNat = 14) (h : decodeE w = .ok i) :
    StandsFor i w := by
  unfold decodeE at h
  split at h
  case h_3 => cases h
  all_goals
    rename_i hsub
    cases h
    exact ⟨formatXSS_of_subcode hc hsub, rfl⟩

theorem decodeF_standsFor {w : Word} {i : Instr} (hc : (catOf w).toNat = 15) (h : decodeF w = .ok i) :
    StandsFor i w := by
  unfold decodeF at h
  split at h
  case h_10 => cases h
  all_goals
    rename_i hsub
    cases h
    exact ⟨formatXSS_of_subcode hc hsub, rfl⟩

/-- The fields that the decoder reads in a category are all of the word. -/
theorem decodeWord_standsFor {w : Word} {i : Instr} (h : decodeWord w = .ok i) : StandsFor i w := by
  have hlt : (catOf w).toNat < 16 := (catOf w).isLt
  unfold decodeWord at h
  split at h
  case h_1 hc => cases h; exact decode0_standsFor hc
  case h_9 hc => exact decode8_standsFor hc h
  case h_15 hc => exact decodeE_standsFor hc h
  case h_16 =>
    simp only [imp_false] at *
    exact decodeF_standsFor (by omega) h
  case h_2 hc | h_3 hc | h_11 hc | h_12 hc => cases h; exact ⟨formatNNN_of_catOf hc, rfl⟩
  case h_4 hc | h_5 hc | h_7 hc | h_8 hc | h_13 hc => cases h; exact ⟨formatXKK_of_catOf hc, rfl⟩
  case h_6 hc | h_10 hc | h_14 hc => cases h; exact ⟨formatXYN_of_catOf hc, rfl⟩

/-- Settles O54: the two bytes put together are the word, and the decoder reads it format by format. -/
theorem decodeInvertsEncode : Obligations.DecodeInvertsEncode := by
  intro i rest hwf
  simp only [encodeBytes, List.cons_append, List.nil_append, decodeBytes, wordOfBytes_high_low, decodeWord_encode hwf]

/-- Settles O55: in every category the fields that are decoded make up the word. -/
theorem encodeInvertsDecode : Obligations.EncodeInvertsDecode := fun _ _ => decodeWord_standsFor

/-- Settles O58: ten fixed words, evaluated. -/
theorem wordsOfEachFamilyDecode : Obligations.WordsOfEachFamilyDecode := by
  unfold Obligations.WordsOfEachFamilyDecode
  decide

end Sys2Proof

/-! The effect of every instruction (spec 10_state.md R30, who writes what), said once as an inductive relation, for the
statements over all instructions. -/

namespace Sys2Proof.Machine

/-- `i` skips on a condition (spec 42_skip.md, 45_timer_key.md R149, R150). -/
def isSkip : Instr → Bool
  | .seImm _ _ => true
  | .sneImm _ _ => true
  | .seReg _ _ _ => true
  | .sneReg _ _ _ => true
  | .skp _ => true
  | .sknp _ => true
  | _ => false

/-- `i` computes a new value of the index register (44_index_memory.md R131 to R134). -/
def setsIndex : Instr → Bool
  | .ldI _ => true
  | .addI _ => true
  | .ldF _ => true
  | _ => false

/-- `STACK[SP] <- a; SP <- SP + 1`, where there is room (41_flow.md R92). -/
def State.pushed (s : State) (a : Word) (h : s.sp.val < 16) : State :=
  { s with stack := s.stack.set s.sp.val a h, sp := ⟨s.sp.val + 1, Nat.succ_lt_succ h⟩ }

/-- `SP <- SP - 1`; no entry changes (41_flow.md R93). -/
def State.popped (s : State) : State := { s with sp := ⟨s.sp.val - 1, by omega⟩ }

/-- `Effect s i t`: executed at `s`, `i` may leave `t`. One constructor for each way of writing the state. -/
inductive Effect (s : State) : Instr → State → Prop
  | fault {i : Instr} {c : FaultCause} {a : Nat} (h : ExecFaults s i c a) :
      Effect s i (s.raise c (some (encode i)) (some a))
  | wait (x : Reg) : Effect s (.ldVxK x) s
  | sys (nnn : BitVec 12) : Effect s (.sys nnn) s.advance
  | jump (nnn : BitVec 12) : Effect s (.jp nnn) (s.goto (zext nnn))
  | jumpV0 (nnn : BitVec 12) : Effect s (.jpV0 nnn) (s.goto (zext nnn + zext (s.reg 0)))
  | call (nnn : BitVec 12) (h : s.sp.val < 16) : Effect s (.call nnn) ((s.pushed (s.pc + 2) h).goto (zext nnn))
  | ret (h : 0 < s.sp.val) : Effect s .ret (s.popped.goto (s.stack[s.sp.val - 1]'(by omega)))
  | skip {i : Instr} (b : Bool) (hi : isSkip i = true) : Effect s i (s.skipIf b)
  | reg {i : Instr} {x : Reg} (b : Byte) (hx : destination i = some x) (hf : writesFlag i = false) :
      Effect s i (s.setReg x b).advance
  | flagged {i : Instr} {x : Reg} (r : Byte) (f : Bool) (hx : destination i = some x) (hf : writesFlag i = true) :
      Effect s i (s.setFlagged x r f).advance
  | index {i : Instr} (a : Word) (hi : setsIndex i = true) : Effect s i (s.setI a).advance
  | delay (x : Reg) : Effect s (.ldDTVx x) (s.setDt (s.reg x)).advance
  | sound (x : Reg) : Effect s (.ldSTVx x) (s.setSt (s.reg x)).advance
  | clear : Effect s .cls (s.setFb Framebuffer.blank).advance
  | draw (x y : Reg) (n : BitVec 4) (f : Framebuffer) (b : Bool) :
      Effect s (.drw x y n) ((s.setFb f).setReg flagReg (flagByte b)).advance
  | digits (x : Reg) (h : s.storeFault 3 = none) : Effect s (.ldB x) (s.storeBytes (bcdDigits (s.reg x))).advance
  | store (x : Reg) (h : s.storeFault (x.val + 1) = none) :
      Effect s (.ldMemVx x) ((s.storeBytes (s.regsUpTo x)).incIAfterBulk x).advance
  | load (x : Reg) : Effect s (.ldVxMem x) ((s.loadRegsUpTo x).incIAfterBulk x).advance

/-- Every instruction has its effect. -/
theorem exec_effect {i : Instr} {s t : State} (h : exec i s = .next t) : Effect s i t := by
  cases i
  case call nnn =>
    simp only [exec, execCall] at h
    split at h
    next hpush =>
      obtain ⟨hs, rfl⟩ := State.push_eq_some hpush
      cases h
      exact .call nnn hs
    next hpush =>
      cases h
      exact .fault (.overflow nnn (State.push_eq_none.1 hpush))
  case ret =>
    simp only [exec, execRet] at h
    split at h
    next hpop =>
      obtain ⟨hs, rfl, rfl⟩ := State.pop_eq_some hpop
      cases h
      exact .ret hs
    next hpop =>
      cases h
      exact .fault (.underflow (State.pop_eq_none.1 hpop))
  case drw x y n =>
    simp only [exec, execDrw] at h
    split at h
    next hfault => cases h; exact .fault (.load hfault)
    next => cases h; exact .draw x y n _ _
  case ldVxMem x =>
    simp only [exec, execLdVxMem] at h
    split at h
    next hfault => cases h; exact .fault (.load hfault)
    next => cases h; exact .load x
  case ldB x =>
    simp only [exec, execLdB] at h
    split at h
    next hfault => cases h; exact .fault (.store hfault)
    next hok => cases h; exact .digits x hok
  case ldMemVx x =>
    simp only [exec, execLdMemVx] at h
    split at h
    next hfault => cases h; exact .fault (.store hfault)
    next hok => cases h; exact .store x hok
  case ldVxK x =>
    simp only [exec, execLdVxK] at h
    split at h
    next => cases h; exact .reg _ rfl rfl
    next => cases h; exact .wait x
  case cls => cases h; exact .clear
  case sys nnn => cases h; exact .sys nnn
  case jp nnn => cases h; exact .jump nnn
  case jpV0 nnn => cases h; exact .jumpV0 nnn
  case ldDTVx x => cases h; exact .delay x
  case ldSTVx x => cases h; exact .sound x
  case seImm | sneImm | seReg | sneReg | skp | sknp => cases h; exact .skip _ rfl
  case ldI | addI | ldF => cases h; exact .index _ rfl
  case addReg | subReg | shr | subnReg | shl => cases h; exact .flagged _ _ rfl rfl
  case ldImm | addImm | ldReg | orReg | andReg | xorReg | rnd | ldVxDT => cases h; exact .reg _ rfl rfl

end Sys2Proof.Machine

/-! The bound on `PC` (spec 10_state.md R17), for O52 and O53: what an effect writes to the program counter and to the
stack, then every transition by what it leaves. -/

namespace Sys2Proof.Machine

/-! ### Reset -/

@[simp] theorem resetWith_pc (cfg : Config) (image : Option (List Byte)) : (resetWith cfg image).pc = 0x0200 := by
  unfold resetWith
  split
  · rfl
  · split_ifs <;> rfl

@[simp] theorem resetWith_stack (cfg : Config) (image : Option (List Byte)) :
    (resetWith cfg image).stack = Vector.replicate 16 0x0000 := by
  unfold resetWith
  split
  · rfl
  · split_ifs <;> rfl

theorem takeReset_pcBounded (s : State) (image : Option (List Byte)) : (s.takeReset image).PcBounded where
  pc_le := by simp [State.takeReset]
  stack_le j := by simp [State.takeReset]

/-! ### Effects -/

theorem State.PcBounded.of_pc_le {s t : State} (hs : s.PcBounded) (hpc : t.pc.toNat ≤ 0x10FE)
    (hstack : t.stack = s.stack) : t.PcBounded where
  pc_le := hpc
  stack_le j := by rw [hstack]; exact hs.stack_le j

theorem toNat_pc_add_two {s : State} (hpc : s.pc.toNat ≤ 0x0FFE) : (s.pc + 2).toNat ≤ 0x1000 := by
  bv_omega

theorem State.PcBounded.advance {s t : State} (hs : s.PcBounded) (hpc : s.pc.toNat ≤ 0x0FFE) (htpc : t.pc = s.pc)
    (hstack : t.stack = s.stack) : t.advance.PcBounded := by
  have hle := toNat_pc_add_two hpc
  exact hs.of_pc_le (by rw [State.advance_pc, htpc]; omega) hstack

theorem State.PcBounded.goto_pushed {s : State} (hs : s.PcBounded) (hpc : s.pc.toNat ≤ 0x0FFE) (h : s.sp.val < 16)
    {a : Word} (ha : a.toNat ≤ 0x10FE) : ((s.pushed (s.pc + 2) h).goto a).PcBounded where
  pc_le := ha
  stack_le j := by
    have hle := toNat_pc_add_two hpc
    have hj := hs.stack_le j
    simp only [State.goto_stack, State.pushed, Fin.getElem_fin, Vector.getElem_set] at hj ⊢
    split_ifs
    · exact hle
    · exact hj

theorem toNat_zext_add_zext (nnn : BitVec 12) (b : Byte) : (zext nnn + zext b).toNat = nnn.toNat + b.toNat := by
  have hn : (zext nnn).toNat = nnn.toNat := toNat_zext (by decide) nnn
  have hb : (zext b).toNat = b.toNat := toNat_zext (by decide) b
  have := nnn.isLt
  have := b.isLt
  rw [BitVec.toNat_add, hn, hb]
  omega

/-- The largest target is that of JP V0, 0xFFF + 0xFF. -/
theorem toNat_zext_add_zext_le (nnn : BitVec 12) (b : Byte) : (zext nnn + zext b).toNat ≤ 0x10FE := by
  have := nnn.isLt
  have := b.isLt
  rw [toNat_zext_add_zext]
  omega

theorem toNat_zext_le (nnn : BitVec 12) : (zext nnn).toNat ≤ 0x10FE := by
  have hn : (zext nnn).toNat = nnn.toNat := toNat_zext (by decide) nnn
  have := nnn.isLt
  omega

theorem Effect.pcBounded {i : Instr} {s t : State} (h : Effect s i t) (hs : s.PcBounded)
    (hpc : s.pc.toNat ≤ 0x0FFE) : t.PcBounded := by
  cases h with
  | fault => exact hs.of_pc_le hs.pc_le rfl
  | wait => exact hs
  | jump nnn => exact hs.of_pc_le (toNat_zext_le nnn) rfl
  | jumpV0 nnn => exact hs.of_pc_le (toNat_zext_add_zext_le nnn (s.reg 0)) rfl
  | call nnn hroom => exact hs.goto_pushed hpc hroom (toNat_zext_le nnn)
  | ret hentry =>
    have hle := hs.stack_le ⟨s.sp.val - 1, by omega⟩
    exact hs.of_pc_le (Nat.le_trans hle (by decide)) rfl
  | skip b =>
    refine hs.of_pc_le ?_ rfl
    rw [State.skipIf_pc]
    split <;> bv_omega
  | sys | reg | flagged | index | delay | sound | clear | draw | digits | store | load =>
    exact hs.advance hpc (by simp) (by simp)

/-! ### Transitions -/

theorem fetch_pc_le {s : State} {w : Word} (h : s.fetch = some w) : s.pc.toNat ≤ 0x0FFE := by
  by_contra hpc
  simp [State.fetch, hpc] at h

theorem stepOnce_pcBounded {s t : State} (h : stepOnce s = .next t) (hs : s.PcBounded) : t.PcBounded := by
  obtain ⟨c, w, n, rfl⟩ | ⟨w, i, hw, -, hexec⟩ := stepOnce_cases h
  · exact hs.of_pc_le hs.pc_le rfl
  · exact (exec_effect hexec).pcBounded hs (fetch_pc_le hw)

@[simp] theorem endSlot_pc (yielded : Bool) (t : State) : (endSlot yielded t).pc = t.pc := by
  unfold endSlot
  split_ifs <;> rfl

@[simp] theorem endSlot_stack (yielded : Bool) (t : State) : (endSlot yielded t).stack = t.stack := by
  unfold endSlot
  split_ifs <;> rfl

end Sys2Proof.Machine

namespace Sys2Proof

open Machine

/-- Settles O52: only a call, a return and a jump write anything but `PC` + 2 or + 4, and a fetch at 0x0FFE at most
comes before them. -/
theorem everyStepKeepsThePcBound : Obligations.EveryStepKeepsThePcBound := by
  intro s t hs h
  obtain ⟨image, _, _, rfl⟩ | ⟨_, ⟨_, rfl⟩ | ⟨_, _, rfl⟩ | ⟨_, _, _, u, hu, rfl⟩⟩ := step_cases h
  · exact takeReset_pcBounded s image
  · exact hs.of_pc_le hs.pc_le rfl
  · exact hs.of_pc_le hs.pc_le rfl
  · have hub : u.PcBounded := stepOnce_pcBounded hu hs
    exact hub.of_pc_le (by simpa using hub.pc_le) (by simp)

/-- Settles O53: `PC` is 0x0200 and every stack entry 0. -/
theorem resetStateHasThePcBound : Obligations.ResetStateHasThePcBound where
  pc_le := by decide
  stack_le := by decide

end Sys2Proof

/-! The invariant (spec 10_state.md R28), for O50 and O51: stores keep the glyph table, reset restores every clause, and
each of the transitions keeps them. -/

namespace Sys2Proof.Machine

/-! ### Memory -/

/-- Bytes that passed the checks of a store lie below 4096, if there are any. -/
theorem State.storeFault_bound {s : State} {n : Nat} (h : s.storeFault n = none) (hn : n ≠ 0) :
    s.i.toNat + n ≤ memSize := by
  obtain ⟨hlt, _⟩ := State.storeFault_eq_none.1 h (n - 1) (by omega)
  omega

theorem Memory.glyphsIntact_writeBytes {m : Memory} (hm : m.wf) (hg : m.glyphsIntact) {a : Nat} {bs : List Byte}
    (ha : a + bs.length ≤ memSize) (hout : ∀ k < bs.length, inGlyphTable (a + k) = false) :
    (m.writeBytes a bs).glyphsIntact := by
  intro k hk
  have hnot : ¬ (a ≤ glyphBase + k ∧ glyphBase + k < a + bs.length) := by
    rintro ⟨hle, hlt⟩
    have hfalse := inGlyphTable_eq_false.1 (hout (glyphBase + k - a) (by omega))
    simp only [glyphBase] at *
    omega
  rw [Memory.read_writeBytes hm ha, if_neg hnot, hg k hk]

/-- A store that passed its checks keeps what the invariant says of memory. -/
theorem State.storeFault_keeps_mem {s : State} (hs : s.Inv) {bs : List Byte} (h : s.storeFault bs.length = none) :
    (s.mem.writeBytes s.i.toNat bs).wf ∧
      (s.cfg.glyphWritePolicy = .fault → (s.mem.writeBytes s.i.toNat bs).glyphsIntact) := by
  by_cases hbs : bs.length = 0
  · rw [List.eq_nil_of_length_eq_zero hbs]
    exact ⟨hs.mem_wf, hs.glyphs⟩
  · have hle := State.storeFault_bound h hbs
    refine ⟨Memory.writeBytes_wf hs.mem_wf hle, fun hp => ?_⟩
    exact Memory.glyphsIntact_writeBytes hs.mem_wf (hs.glyphs hp) hle fun k hk =>
      (State.storeFault_eq_none.1 h k hk).2 hp

/-! ### Parts of a transition -/

/-- The inputs are no part of the invariant. -/
theorem State.Inv.with_inputs {s : State} (hs : s.Inv) (q : List Input) (m : Nat) :
    ({ s with inputs := q, taken := m } : State).Inv :=
  ⟨hs.mem_wf, hs.cfg_wf, hs.glyphs, hs.slot_lt, hs.fault_iff, hs.fault_pc⟩

theorem State.Inv.raise {s : State} (hs : s.Inv) (c : FaultCause) (w : Option Word) (n : Option Nat) :
    (s.raise c w n).Inv where
  mem_wf := hs.mem_wf
  cfg_wf := hs.cfg_wf
  glyphs := hs.glyphs
  slot_lt := hs.slot_lt
  fault_iff := by simp
  fault_pc := by simp

theorem State.Inv.fault_eq_none {s : State} (hs : s.Inv) (hrun : s.run ≠ .halted) : s.fault = none := by
  cases hf : s.fault with
  | none => rfl
  | some f => exact absurd (hs.fault_iff.1 ⟨f, hf⟩) hrun

/-- A core with no fault, running or stopped. -/
theorem State.Inv.of_fault_eq_none {t : State} (hmem : t.mem.wf) (hcfg : t.cfg.wf)
    (hglyphs : t.cfg.glyphWritePolicy = .fault → t.mem.glyphsIntact) (hslot : t.slot < t.cfg.stepsPerFrame)
    (hfault : t.fault = none) (hrun : t.run ≠ .halted) : t.Inv where
  mem_wf := hmem
  cfg_wf := hcfg
  glyphs := hglyphs
  slot_lt := hslot
  fault_iff := by simp [hfault, hrun]
  fault_pc := by simp [hfault]

theorem exec_keeps_inv {i : Instr} {s t : State} (h : exec i s = .next t) (hs : s.Inv) (hrun : s.run = .running) :
    t.Inv := by
  obtain ⟨htrun, htfault, htslot, htcfg, -⟩ | ⟨c, w, n, rfl⟩ := exec_cases h
  · have hmem : t.mem.wf ∧ (s.cfg.glyphWritePolicy = .fault → t.mem.glyphsIntact) := by
      obtain hmem | ⟨bs, hbs, hmem⟩ := exec_mem_cases h
      · rw [hmem]; exact ⟨hs.mem_wf, hs.glyphs⟩
      · rw [hmem]; exact State.storeFault_keeps_mem hs hbs
    refine .of_fault_eq_none hmem.1 (htcfg ▸ hs.cfg_wf) (htcfg ▸ hmem.2) ?_ ?_ ?_
    · rw [htslot, htcfg]; exact hs.slot_lt
    · rw [htfault]; exact hs.fault_eq_none (by simp [hrun])
    · simp [htrun, hrun]
  · exact hs.raise c w n

theorem stepOnce_keeps_inv {s t : State} (h : stepOnce s = .next t) (hs : s.Inv) (hrun : s.run = .running) : t.Inv := by
  obtain ⟨c, w, n, rfl⟩ | ⟨w, i, -, -, hexec⟩ := stepOnce_cases h
  · exact hs.raise c w n
  · exact exec_keeps_inv hexec hs hrun

/-- The slot accounting keeps `SLOT` below STEPS_PER_FRAME: at the last slot it starts again from 0. -/
theorem endSlot_keeps_inv (yielded : Bool) {t : State} (ht : t.Inv) : (endSlot yielded t).Inv := by
  have hslot := ht.slot_lt
  unfold endSlot
  split_ifs with hend hrun
  · exact ⟨ht.mem_wf, ht.cfg_wf, ht.glyphs, Nat.zero_lt_of_lt hslot, ht.fault_iff, ht.fault_pc⟩
  · have hne : t.slot + 1 ≠ t.cfg.stepsPerFrame := fun heq => hend (by simp [endsFrame, hrun, heq])
    exact ⟨ht.mem_wf, ht.cfg_wf, ht.glyphs, Nat.lt_of_le_of_ne hslot hne, ht.fault_iff, ht.fault_pc⟩
  · exact ht

/-! ### Reset -/

theorem resetMemory_glyphsIntact (cfg : Config) : (resetMemory cfg).glyphsIntact :=
  Memory.glyphsIntact_of_unlisted fun p hp => by simpa using (List.mem_filter.1 hp).2

theorem resetBase_inv {cfg : Config} (h : cfg.wf) : (resetBase cfg).Inv :=
  .of_fault_eq_none (resetMemory_wf h) h (fun _ => resetMemory_glyphsIntact cfg) h.1 rfl nofun

theorem resetWith_inv {cfg : Config} (h : cfg.wf) (image : Option (List Byte)) : (resetWith cfg image).Inv := by
  unfold resetWith
  split
  · exact (resetBase_inv h).raise _ _ _
  · split_ifs with hlen
    · exact (resetBase_inv h).raise _ _ _
    · rename_i bytes
      have hle : progBase + bytes.length ≤ memSize := by
        simp only [progBase, progCapacity, memSize] at *
        omega
      have hout : ∀ k < bytes.length, inGlyphTable (progBase + k) = false := fun k _ =>
        inGlyphTable_eq_false.2 (by simp only [progBase]; omega)
      exact .of_fault_eq_none (Memory.writeBytes_wf (resetMemory_wf h) hle) h
        (fun _ => Memory.glyphsIntact_writeBytes (resetMemory_wf h) (resetMemory_glyphsIntact cfg) hle hout) h.1 rfl
        nofun

end Sys2Proof.Machine

namespace Sys2Proof

open Machine

/-- Settles O50: a reset establishes every clause, a stop leaves a core without a fault, and a step keeps them through
its stores, its fault entry and its slot accounting. -/
theorem everyStepKeepsTheInvariant : Obligations.EveryStepKeepsTheInvariant := by
  intro s t hs h
  obtain ⟨image, _, _, rfl⟩ | ⟨_, ⟨_, rfl⟩ | ⟨hrun, _, rfl⟩ | ⟨hrun, _, _, u, hu, rfl⟩⟩ := step_cases h
  · exact (resetWith_inv hs.cfg_wf image).with_inputs _ _
  · exact hs.with_inputs _ _
  · exact .of_fault_eq_none hs.mem_wf hs.cfg_wf hs.glyphs hs.slot_lt (hs.fault_eq_none (by simp [hrun])) nofun
  · exact (endSlot_keeps_inv (yieldsNow s) (stepOnce_keeps_inv hu hs hrun)).with_inputs _ _

/-- Settles O51: the reset state is the reset of the default configuration before any image byte. -/
theorem resetStateHasTheInvariant : Obligations.ResetStateHasTheInvariant := by
  have hcfg : Config.default.wf := by decide
  exact resetBase_inv hcfg

end Sys2Proof

/-! Who writes what and who faults (spec 10_state.md R13, R30; 60_exceptions.md R171), for O38, O46 and O47: each clause
is read off the effects. -/

namespace Sys2Proof.Machine

/-! ### The writers of each piece of state -/

section
variable {i : Instr} {s t : State}

theorem destination_eq_none_of_isSkip (h : isSkip i = true) : destination i = none := by
  cases i <;> simp_all [isSkip, destination]

theorem setsIndex_eq_true_iff : setsIndex i = true ↔ (∃ nnn, i = .ldI nnn) ∨ ∃ x, i = .addI x ∨ i = .ldF x := by
  cases i <;> simp [setsIndex]

theorem Effect.reg_writer (h : Effect s i t) (r : Reg) (hr : t.reg r ≠ s.reg r) :
    destination i = some r ∨ (writesFlag i = true ∧ r = 15) ∨ ∃ x, i = .ldVxMem x ∧ r ≤ x := by
  cases h with
  | @reg _ x b hx _ =>
    have hrx : r = x := by_contra fun hne => hr (s.reg_setReg_of_ne hne b)
    exact .inl (hrx ▸ hx)
  | @flagged _ x v f hx hf =>
    rw [State.reg_advance, State.reg_setFlagged] at hr
    split_ifs at hr with hflag hrx
    · exact .inr (.inl ⟨hf, hflag⟩)
    · exact .inl (hrx ▸ hx)
    · exact absurd rfl hr
  | draw x y n f b =>
    have hflag : r = 15 := by_contra fun hne => hr ((s.setFb f).reg_setReg_of_ne hne (flagByte b))
    exact .inr (.inl ⟨rfl, hflag⟩)
  | load x =>
    rw [State.reg_advance, State.reg_incIAfterBulk, State.reg_loadRegsUpTo] at hr
    split_ifs at hr with hle
    · exact .inr (.inr ⟨x, rfl, hle⟩)
    · exact absurd rfl hr
  | digits | store => simp at hr
  | fault | wait | sys | jump | jumpV0 | call | ret | skip | index | delay | sound | clear => exact absurd rfl hr

theorem Effect.index_writer (h : Effect s i t) (hi : t.i ≠ s.i) :
    (∃ nnn, i = .ldI nnn) ∨ (∃ x, i = .addI x ∨ i = .ldF x) ∨
      (s.cfg.ldstIInc = true ∧ ∃ x, i = .ldMemVx x ∨ i = .ldVxMem x) := by
  cases h with
  | index a hset => exact (setsIndex_eq_true_iff.1 hset).imp_right .inl
  | store x | load x =>
    rw [State.advance_i, State.incIAfterBulk_i] at hi
    split_ifs at hi with hinc
    · exact .inr (.inr ⟨hinc, x, by simp⟩)
    · simp at hi
  | fault | wait | sys | jump | jumpV0 | call | ret | skip | reg | flagged | delay | sound | clear | draw | digits =>
    exact absurd rfl hi

theorem Effect.sp_writer (h : Effect s i t) (hsp : t.sp ≠ s.sp) : (∃ nnn, i = .call nnn) ∨ i = .ret := by
  cases h with
  | call nnn => exact .inl ⟨nnn, rfl⟩
  | ret => exact .inr rfl
  | store | load => simp at hsp
  | _ => exact absurd rfl hsp

theorem Effect.stack_writer (h : Effect s i t) (hstack : t.stack ≠ s.stack) : ∃ nnn, i = .call nnn := by
  cases h with
  | call nnn => exact ⟨nnn, rfl⟩
  | store | load => simp at hstack
  | _ => exact absurd rfl hstack

theorem Effect.dt_writer (h : Effect s i t) (hdt : t.dt ≠ s.dt) : ∃ x, i = .ldDTVx x := by
  cases h with
  | delay x => exact ⟨x, rfl⟩
  | store | load => simp at hdt
  | _ => exact absurd rfl hdt

theorem Effect.st_writer (h : Effect s i t) (hst : t.st ≠ s.st) : ∃ x, i = .ldSTVx x := by
  cases h with
  | sound x => exact ⟨x, rfl⟩
  | store | load => simp at hst
  | _ => exact absurd rfl hst

theorem Effect.mem_writer (h : Effect s i t) (hmem : t.mem ≠ s.mem) : ∃ x, i = .ldB x ∨ i = .ldMemVx x := by
  cases h with
  | digits x => exact ⟨x, .inl rfl⟩
  | store x => exact ⟨x, .inr rfl⟩
  | load => simp at hmem
  | _ => exact absurd rfl hmem

theorem exec_keeps_aside (h : exec i s = .next t) :
    t.slot = s.slot ∧ t.cfg = s.cfg ∧ t.inputs = s.inputs ∧ t.taken = s.taken := by
  obtain ⟨_, _, hkept⟩ | ⟨c, w, n, rfl⟩ := exec_cases h
  · exact hkept
  · exact ⟨rfl, rfl, rfl, rfl⟩

/-! ### The flag -/

theorem flagByte_eq (f : Bool) : flagByte f = 0x00 ∨ flagByte f = 0x01 := by
  cases f
  · exact .inl rfl
  · exact .inr rfl

theorem State.flag_setReg (s : State) (b : Byte) : (s.setReg flagReg b).reg 15 = b := s.reg_setReg_self flagReg b

theorem State.flag_setFlagged (s : State) (x : Reg) (r : Byte) (f : Bool) : (s.setFlagged x r f).reg 15 = flagByte f :=
  State.flag_setReg _ _

theorem Effect.flag_of_writesFlag (h : Effect s i t) (hi : writesFlag i = true) (hrun : t.run = .running) :
    t.reg 15 = 0x00 ∨ t.reg 15 = 0x01 := by
  cases h with
  | fault => cases hrun
  | flagged r f =>
    rw [State.reg_advance, State.flag_setFlagged]
    exact flagByte_eq f
  | draw x y n f b =>
    rw [State.reg_advance, State.flag_setReg]
    exact flagByte_eq b
  | reg b _ hf => exact absurd hi (by simp [hf])
  | skip b hskip => cases i <;> simp_all [isSkip, writesFlag]
  | index a hset => cases i <;> simp_all [setsIndex, writesFlag]
  | _ => cases hi

end

/-! ### Access checks by address -/

/-- The first failure, by its address and not by its distance from the first address. -/
theorem firstFault_eq_some_iff {check : Nat → Option FaultCause} {a n b : Nat} {c : FaultCause} :
    firstFault check a n = some (c, b) ↔
      a ≤ b ∧ b < a + n ∧ check b = some c ∧ ∀ j, a ≤ j → j < b → check j = none := by
  rw [firstFault_eq_some]
  constructor
  · rintro ⟨k, hk, rfl, hc, hbefore⟩
    refine ⟨by omega, by omega, hc, fun j haj hjb => ?_⟩
    obtain ⟨d, rfl⟩ := Nat.exists_eq_add_of_le haj
    exact hbefore d (by omega)
  · rintro ⟨hab, hbn, hc, hbefore⟩
    obtain ⟨k, rfl⟩ := Nat.exists_eq_add_of_le hab
    exact ⟨k, by omega, rfl, hc, fun j hj => hbefore _ (by omega) (by omega)⟩

theorem readFault_eq_some_iff {a : Nat} {c : FaultCause} : readFault a = some c ↔ c = .addrBounds ∧ 4096 ≤ a := by
  unfold readFault
  rw [show memSize = 4096 from rfl]
  split_ifs with hbounds
  · simp [hbounds, eq_comm]
  · simp [hbounds]

theorem writeFault_eq_none_iff {s : State} {a : Nat} : writeFault s.cfg.glyphWritePolicy a = none ↔ MayStore s a := by
  rw [writeFault_eq_none, inGlyphTable_eq_false]
  rfl

theorem writeFault_eq_some_iff {s : State} {a : Nat} {c : FaultCause} :
    writeFault s.cfg.glyphWritePolicy a = some c ↔ StoreFaults s a c := by
  unfold writeFault StoreFaults
  simp only [inGlyphTable_eq_true, show memSize = 4096 from rfl]
  split_ifs with hbounds hglyph
  · have hnot : ¬ a < 0x0A0 := by omega
    simp [hbounds, hnot, eq_comm]
  · simp [hbounds, hglyph, eq_comm]
  · simp [hbounds, hglyph]

theorem State.loadFault_eq_some_iff {s : State} {n a : Nat} {c : FaultCause} :
    s.loadFault n = some (c, a) ↔ s.i.toNat ≤ a ∧ a < s.i.toNat + n ∧ (c = .addrBounds ∧ 4096 ≤ a) ∧
      ∀ b, s.i.toNat ≤ b → b < a → b < 4096 := by
  simp only [State.loadFault, firstFault_eq_some_iff, readFault_eq_some_iff, readFault_eq_none]
  rfl

theorem State.storeFault_eq_some_iff {s : State} {n a : Nat} {c : FaultCause} :
    s.storeFault n = some (c, a) ↔ s.i.toNat ≤ a ∧ a < s.i.toNat + n ∧ StoreFaults s a c ∧
      ∀ b, s.i.toNat ≤ b → b < a → MayStore s b := by
  simp only [State.storeFault, firstFault_eq_some_iff, writeFault_eq_some_iff, writeFault_eq_none_iff]

/-- The conditions of each fault of an executed instruction (60_exceptions.md R171). -/
theorem ExecFaults.conditions {i : Instr} {s : State} {c : FaultCause} {a : Nat} (h : ExecFaults s i c a) :
    (c = .stackOverflow ∧ (∃ nnn, i = .call nnn) ∧ s.sp.val = 16) ∨
      (c = .stackUnderflow ∧ i = .ret ∧ s.sp.val = 0) ∨
      (c = .addrBounds ∧ 4096 ≤ a ∧ s.i.toNat ≤ a ∧ a < s.i.toNat + (storeLength i + loadLength i)) ∨
      (c = .writeProtect ∧ s.cfg.glyphWritePolicy = .fault ∧ 0x050 ≤ a ∧ a < 0x0A0 ∧
        s.i.toNat ≤ a ∧ a < s.i.toNat + storeLength i) := by
  cases h with
  | overflow nnn h => exact .inl ⟨rfl, ⟨nnn, rfl⟩, h⟩
  | underflow h => exact .inr (.inl ⟨rfl, rfl, h⟩)
  | load h =>
    obtain ⟨hle, hlt, ⟨hc, hbounds⟩, -⟩ := State.loadFault_eq_some_iff.1 h
    exact .inr (.inr (.inl ⟨hc, hbounds, hle, by omega⟩))
  | store h =>
    obtain ⟨hle, hlt, ⟨hc, hbounds⟩ | ⟨hc, hpolicy, hlow, hhigh⟩, -⟩ := State.storeFault_eq_some_iff.1 h
    · exact .inr (.inr (.inl ⟨hc, hbounds, hle, by omega⟩))
    · exact .inr (.inr (.inr ⟨hc, hpolicy, hlow, hhigh, hle, hlt⟩))

end Sys2Proof.Machine

namespace Sys2Proof

open Machine

/-- Settles O38: a change of the run state is a fault entry, whose condition `ExecFaults` names. -/
theorem faultsComeOnlyFromTheirInstructions : Obligations.FaultsComeOnlyFromTheirInstructions := by
  intro i s t h hs ht
  obtain ⟨c, a, hfaults, rfl⟩ := exec_eq_raise_of_run_ne h (hs ▸ ht)
  refine ⟨_, rfl, rfl, ?_⟩
  obtain hover | hunder | ⟨hc, hbounds⟩ | ⟨hc, hpolicy, hprotect⟩ := hfaults.conditions
  · exact .inl hover
  · exact .inr (.inl hunder)
  · exact .inr (.inr (.inl ⟨hc, a, rfl, hbounds⟩))
  · exact .inr (.inr (.inr ⟨hc, hpolicy, a, rfl, hprotect⟩))

/-- Settles O46: the flag is written last, as a `flagByte`; and register 15 has only the writers of any register. -/
theorem sixOperationsWriteTheFlag : Obligations.SixOperationsWriteTheFlag := by
  intro i s t h _
  refine ⟨(exec_effect h).flag_of_writesFlag, fun hflag hdest hload => ?_⟩
  by_contra hne
  obtain hx | ⟨hwrites, -⟩ | ⟨x, rfl, hx⟩ := (exec_effect h).reg_writer 15 hne
  · exact hdest hx
  · simp [hflag] at hwrites
  · exact hload (by rw [Fin.last_le_iff.1 hx]; rfl)

/-- Settles O47: the writers of each piece of state, by the effects. -/
theorem eachStateHasItsWriters : Obligations.EachStateHasItsWriters := by
  intro i s t h
  have heffect := exec_effect h
  exact ⟨heffect.reg_writer, heffect.index_writer, heffect.sp_writer, heffect.stack_writer, heffect.dt_writer,
    heffect.st_writer, heffect.mem_writer, exec_keeps_aside h⟩

end Sys2Proof

/-! What is not read (spec 10_state.md R30; 60_exceptions.md section 5), for O48 and O49: other values of the sound
timer, the slot count and the inputs pass through every instruction but LD ST, as long as the sample is the same for the
four instructions that ask for it. -/

namespace Sys2Proof.Machine

/-- `s` with other values of the state that only the frame engine and the environment look at. -/
def State.withAside (s : State) (b : Byte) (k : Nat) (q : List Input) (m : Nat) : State :=
  { s with st := b, slot := k, inputs := q, taken := m }

/-- `i` asks for the sample of the slot (10_state.md R30, rows keys and random draw). -/
def readsSample : Instr → Bool
  | .rnd _ _ => true
  | .skp _ => true
  | .sknp _ => true
  | .ldVxK _ => true
  | _ => false

section
variable {i : Instr} {s t : State} (b : Byte) (k : Nat) (q : List Input) (m : Nat)

theorem State.push_withAside (a : Word) :
    (s.withAside b k q m).push a = (s.push a).map fun t => t.withAside b k q m := by
  by_cases h : s.sp.val < 16
  · simp [State.push, State.withAside, h]
  · simp [State.push, State.withAside, h]

theorem State.pop_withAside : (s.withAside b k q m).pop = s.pop.map fun p => (p.1, p.2.withAside b k q m) := by
  by_cases h : 0 < s.sp.val
  · simp [State.pop, State.withAside, h]
  · simp [State.pop, State.withAside, h]

theorem State.loadFault_withAside (n : Nat) : (s.withAside b k q m).loadFault n = s.loadFault n := rfl

theorem State.storeFault_withAside (n : Nat) : (s.withAside b k q m).storeFault n = s.storeFault n := rfl

/-- With those values in place the answer is the same but for them, and they pass unchanged. -/
theorem exec_withAside (hst : ∀ x, i ≠ .ldSTVx x) (henv : readsSample i = true → (s.withAside b k q m).env = s.env)
    (h : exec i s = .next t) : exec i (s.withAside b k q m) = .next (t.withAside b k q m) := by
  cases i
  case ldSTVx x => exact absurd rfl (hst x)
  -- the stack answers as at `s`, those values of its state apart
  case call | ret =>
    have hpc : (s.withAside b k q m).pc = s.pc := rfl
    simp only [exec, execCall, execRet, State.push_withAside, State.pop_withAside, hpc] at h ⊢
    split at h
    all_goals
      rename_i hstack
      rw [hstack]
      cases h
      rfl
  case ldB | ldMemVx | ldVxMem | drw =>
    simp only [exec, execLdB, execLdMemVx, execLdVxMem, execDrw, State.storeFault_withAside,
      State.loadFault_withAside] at h ⊢
    split at h
    all_goals
      cases h
      rfl
  case ldVxK =>
    simp only [exec, execLdVxK, henv rfl] at h ⊢
    split at h
    all_goals
      cases h
      rfl
  case rnd | skp | sknp =>
    cases h
    simp only [exec, execRnd, execSkp, execSknp, State.rndByte, henv rfl]
    rfl
  -- the others answer one expression in the fields they read
  all_goals
    cases h
    rfl

theorem exec_st (hst : ¬ ∃ x, i = .ldSTVx x) (h : exec i s = .next t) : t.st = s.st :=
  by_contra fun hne => hst ((exec_effect h).st_writer hne)

end

end Sys2Proof.Machine

namespace Sys2Proof

open Machine

/-- Settles O48: only the four ask for the sample, so other inputs pass through the rest, LD ST included. -/
theorem onlyFourInstructionsReadTheInputs : Obligations.OnlyFourInstructionsReadTheInputs := by
  intro i s t q m hrnd hskp hsknp hkey h
  by_cases hst : ∃ x, i = .ldSTVx x
  · obtain ⟨x, rfl⟩ := hst
    cases h
    rfl
  · have hsample : readsSample i = false := by
      cases i
      case rnd x kk => exact absurd rfl (hrnd x kk)
      case skp x => exact absurd rfl (hskp x)
      case sknp x => exact absurd rfl (hsknp x)
      case ldVxK x => exact absurd rfl (hkey x)
      all_goals rfl
    have htst : t.st = s.st := exec_st hst h
    have htslot : t.slot = s.slot := (exec_keeps_aside h).1
    have hexec : exec i { s with inputs := q, taken := m } = .next (t.withAside s.st s.slot q m) :=
      exec_withAside s.st s.slot q m (not_exists.1 hst) (by simp [hsample]) h
    rw [hexec, State.withAside, ← htst, ← htslot]

/-- Settles O49: another slot count or sound timer keeps the sample and passes; LD ST writes over the latter. -/
theorem slotAndSoundTimerAreUnread : Obligations.SlotAndSoundTimerAreUnread := by
  intro i s t k b h
  obtain ⟨hslot, -, hinputs, htaken⟩ := exec_keeps_aside h
  refine ⟨?_, fun hst => ?_, ?_⟩
  · by_cases hst : ∃ x, i = .ldSTVx x
    · obtain ⟨x, rfl⟩ := hst
      cases h
      rfl
    · have htst : t.st = s.st := exec_st hst h
      have hexec : exec i { s with slot := k } = .next (t.withAside s.st k s.inputs s.taken) :=
        exec_withAside s.st k s.inputs s.taken (not_exists.1 hst) (fun _ => rfl) h
      rw [hexec, State.withAside, ← htst, ← hinputs, ← htaken]
  · have hexec : exec i { s with st := b } = .next (t.withAside b s.slot s.inputs s.taken) :=
      exec_withAside b s.slot s.inputs s.taken hst (fun _ => rfl) h
    rw [hexec, State.withAside, ← hslot, ← hinputs, ← htaken]
  · rintro ⟨x, rfl⟩
    cases h
    rfl

end Sys2Proof

/-! Stores and loads through `I` (spec 44_index_memory.md R136 to R140; 20_memory.md R44 to R48), for O16 to O21: what
each of the three instructions answers with its checks passed, the first address that does not pass them, and a fetch of
what was stored. -/

namespace Sys2Proof.Machine

variable {s : State}

/-- The byte at the lower address is the high one (20_memory.md R48). -/
theorem toNat_wordOfBytes (hi lo : Byte) : (wordOfBytes hi lo).toNat = 256 * hi.toNat + lo.toNat := by
  rw [wordOfBytes, BitVec.toNat_append, ← Nat.shiftLeft_add_eq_or_of_lt lo.isLt, Nat.shiftLeft_eq]
  omega

/-! ### Execution with the checks passed -/

theorem exec_ldB_of_storeFault_eq_none (x : Reg) (h : s.storeFault 3 = none) :
    exec (.ldB x) s = .next (s.storeBytes (bcdDigits (s.reg x))).advance := by
  simp only [exec, execLdB, h]

theorem exec_ldMemVx_of_storeFault_eq_none (x : Reg) (h : s.storeFault (x.val + 1) = none) :
    exec (.ldMemVx x) s = .next ((s.storeBytes (s.regsUpTo x)).incIAfterBulk x).advance := by
  simp only [exec, execLdMemVx, h]

theorem exec_ldVxMem_of_loadFault_eq_none (x : Reg) (h : s.loadFault (x.val + 1) = none) :
    exec (.ldVxMem x) s = .next ((s.loadRegsUpTo x).incIAfterBulk x).advance := by
  simp only [exec, execLdVxMem, h]

theorem State.storeFault_eq_none_of_mayStore {n : Nat} (h : ∀ k < n, MayStore s (s.i.toNat + k)) :
    s.storeFault n = none :=
  firstFault_eq_none.2 fun k hk => writeFault_eq_none_iff.2 (h k hk)

/-! ### Memory after a store -/

/-- Stored bytes are read back in order, and no other byte changes. -/
theorem State.read_storeBytes (hs : s.mem.wf) {bs : List Byte} (h : s.storeFault bs.length = none) (b : Nat) :
    (s.storeBytes bs).mem.read b =
      if s.i.toNat ≤ b ∧ b < s.i.toNat + bs.length then bs.getD (b - s.i.toNat) 0 else s.mem.read b := by
  by_cases hbs : bs.length = 0
  · have hnot : ¬ (s.i.toNat ≤ b ∧ b < s.i.toNat + bs.length) := by omega
    rw [if_neg hnot, State.storeBytes_mem, List.eq_nil_of_length_eq_zero hbs]
    rfl
  · exact Memory.read_writeBytes hs (State.storeFault_bound h hbs) b

theorem State.read_storeBytes_add (hs : s.mem.wf) {bs : List Byte} (h : s.storeFault bs.length = none) {k : Nat}
    (hk : k < bs.length) : (s.storeBytes bs).mem.read (s.i.toNat + k) = bs[k] := by
  rw [State.read_storeBytes hs h, if_pos (by omega), Nat.add_sub_cancel_left, List.getD_eq_getElem _ _ hk]

theorem State.read_storeBytes_outside (hs : s.mem.wf) {bs : List Byte} (h : s.storeFault bs.length = none) {b : Nat}
    (hb : b < s.i.toNat ∨ s.i.toNat + bs.length ≤ b) : (s.storeBytes bs).mem.read b = s.mem.read b := by
  rw [State.read_storeBytes hs h, if_neg (by omega)]

theorem State.length_regsUpTo (s : State) (x : Reg) : (s.regsUpTo x).length = x.val + 1 := by
  simp [State.regsUpTo]

theorem State.getElem_regsUpTo (s : State) (x : Reg) {k : Nat} (hk : k < (s.regsUpTo x).length) :
    (s.regsUpTo x)[k] = s.reg ⟨k, by have := s.length_regsUpTo x; omega⟩ := by
  simp [State.regsUpTo, State.reg]

/-- A legal bulk store, read back at the address of one register. -/
theorem State.read_storeBytes_regsUpTo (hs : s.mem.wf) {x : Reg} (h : s.storeFault (x.val + 1) = none) {k : Reg}
    (hk : k ≤ x) : (s.storeBytes (s.regsUpTo x)).mem.read (s.i.toNat + k.val) = s.reg k := by
  rw [← s.length_regsUpTo x] at h
  have hlt : k.val < (s.regsUpTo x).length := by rw [s.length_regsUpTo]; exact Nat.lt_succ_of_le hk
  rw [State.read_storeBytes_add hs h hlt, State.getElem_regsUpTo]

@[simp] theorem length_bcdDigits (v : Byte) : (bcdDigits v).length = 3 := rfl

theorem toNat_bcdDigits (v : Byte) :
    (bcdDigits v)[0].toNat = v.toNat / 100 ∧ (bcdDigits v)[1].toNat = v.toNat / 10 % 10 ∧
      (bcdDigits v)[2].toNat = v.toNat % 10 := by
  have := v.isLt
  simp only [bcdDigits, List.getElem_cons_zero, List.getElem_cons_succ, BitVec.toNat_ofNat]
  omega

/-! ### The index register after a bulk transfer -/

/-- `I` after a bulk transfer that leaves the state `u` before its increment (44_index_memory.md R140). -/
theorem bulk_index {u : State} (x : Reg) (hi : u.i = s.i) (hcfg : u.cfg = s.cfg) :
    (s.cfg.ldstIInc = false → (u.incIAfterBulk x).advance.i = s.i) ∧
      (s.cfg.ldstIInc = true → (u.incIAfterBulk x).advance.i.toNat = (s.i.toNat + x.val + 1) % 65536) := by
  rw [State.advance_i, State.incIAfterBulk_i, hi, hcfg]
  refine ⟨fun h => by simp [h], fun h => ?_⟩
  rw [if_pos h, BitVec.toNat_add, BitVec.toNat_ofNat]
  omega

end Sys2Proof.Machine

namespace Sys2Proof

open Machine

/-- Settles O16: the three digits are what a store of three bytes leaves at `I`, and they sum to the byte. -/
theorem bcdStoresThreeDigits : Obligations.BcdStoresThreeDigits := by
  intro x s
  refine ⟨decodeWord_encode (i := .ldB x) rfl, fun hs hmay => ?_⟩
  have hok : s.storeFault (bcdDigits (s.reg x)).length = none := State.storeFault_eq_none_of_mayStore hmay
  have hread (k : Nat) (hk : k < 3) : (s.storeBytes (bcdDigits (s.reg x))).mem.read (s.i.toNat + k) =
      (bcdDigits (s.reg x))[k] := State.read_storeBytes_add hs hok hk
  obtain ⟨hhundreds, htens, hunits⟩ := toNat_bcdDigits (s.reg x)
  rw [← hread 0 (by decide), Nat.add_zero] at hhundreds
  rw [← hread 1 (by decide)] at htens
  rw [← hread 2 (by decide)] at hunits
  refine ⟨_, exec_ldB_of_storeFault_eq_none x hok, hhundreds, htens, hunits, ?_, ?_, State.advance_pc _, ?_⟩
  · rw [State.advance_mem, hhundreds, htens, hunits]
    omega
  · exact fun b hb => State.read_storeBytes_outside hs hok hb
  · simp [KeepsRegs, KeepsIndex, KeepsStack, KeepsTimers, KeepsScreen, KeepsEngine]

/-- Settles O17: the bytes of the store are the registers in order. -/
theorem bulkStoreWritesRegisters : Obligations.BulkStoreWritesRegisters := by
  intro x s
  refine ⟨decodeWord_encode (i := .ldMemVx x) rfl, fun hs hmay => ?_⟩
  have hok : s.storeFault (x.val + 1) = none :=
    State.storeFault_eq_none_of_mayStore fun k hk => hmay k (Nat.le_of_lt_succ hk)
  obtain ⟨hkeep, hinc⟩ := bulk_index x (s.storeBytes_i (s.regsUpTo x)) (s.storeBytes_cfg (s.regsUpTo x))
  refine ⟨_, exec_ldMemVx_of_storeFault_eq_none x hok, fun k hk => State.read_storeBytes_regsUpTo hs hok hk, ?_,
    hkeep, hinc, State.advance_pc _, ?_⟩
  · rw [← s.length_regsUpTo x] at hok ⊢
    exact fun b hb => State.read_storeBytes_outside hs hok hb
  · simp [KeepsRegs, KeepsStack, KeepsTimers, KeepsScreen, KeepsEngine]

/-- Settles O18: the load reads up to register x and keeps the registers above. -/
theorem bulkLoadReadsRegisters : Obligations.BulkLoadReadsRegisters := by
  intro x s
  refine ⟨decodeWord_encode (i := .ldVxMem x) rfl, fun hbound => ?_⟩
  have hok : s.loadFault (x.val + 1) = none := State.loadFault_eq_none.2 (.inr hbound)
  obtain ⟨hkeep, hinc⟩ := bulk_index x (s.loadRegsUpTo_i x) (s.loadRegsUpTo_cfg x)
  refine ⟨_, exec_ldVxMem_of_loadFault_eq_none x hok, fun k hk => ?_, fun k hk => ?_, hkeep, hinc,
    by simp, ?_⟩
  · rw [State.reg_advance, State.reg_incIAfterBulk, State.reg_loadRegsUpTo, if_pos hk]
  · rw [State.reg_advance, State.reg_incIAfterBulk, State.reg_loadRegsUpTo, if_neg (not_le.2 hk)]
  · simp [KeepsStack, KeepsTimers, KeepsScreen, KeepsMemory, KeepsEngine]

/-- Settles O19: the check of a store reports the first address that may not be stored to, before any write. -/
theorem storesFaultAtTheFirstBadAddress : Obligations.StoresFaultAtTheFirstBadAddress := by
  rintro i s a cause hi hle hlt hbefore hfaults
  have hfault : s.storeFault (storeLength i) = some (cause, a) :=
    State.storeFault_eq_some_iff.2 ⟨hle, hlt, hfaults, hbefore⟩
  refine ⟨s.raise cause (some (encode i)) (some a), ?_, rfl⟩
  obtain ⟨x, rfl | rfl⟩ := hi
  · simp only [storeLength] at hfault
    simp only [exec, execLdB, hfault]
  · simp only [storeLength] at hfault
    simp only [exec, execLdMemVx, hfault]

/-- Settles O20: the check of a draw or load reports the first address past the end of memory. -/
theorem loadsFaultAtTheFirstBadAddress : Obligations.LoadsFaultAtTheFirstBadAddress := by
  rintro i s a hi hle hlt hbefore hbounds
  have hfault : s.loadFault (loadLength i) = some (.addrBounds, a) :=
    State.loadFault_eq_some_iff.2 ⟨hle, hlt, ⟨rfl, hbounds⟩, hbefore⟩
  refine ⟨s.raise .addrBounds (some (encode i)) (some a), ?_, rfl⟩
  obtain ⟨x, y, n, rfl⟩ | ⟨x, rfl⟩ := hi
  · exact exec_drw_of_loadFault_eq_some x y hfault
  · simp only [loadLength] at hfault
    simp only [exec, execLdVxMem, hfault]

/-- Settles O21: the fetch at the old `I` reads the bytes of registers 0 and 1, high byte first. -/
theorem storedWordIsFetchedBigEndian : Obligations.StoredWordIsFetchedBigEndian := by
  intro x s t hx hs hmay h
  have hok : s.storeFault (x.val + 1) = none :=
    State.storeFault_eq_none_of_mayStore fun k hk => hmay k (Nat.le_of_lt_succ hk)
  cases (exec_ldMemVx_of_storeFault_eq_none x hok).symm.trans h
  have hi : s.i.toNat ≤ 0x0FFE := by
    have hbound := State.storeFault_bound hok (Nat.succ_ne_zero _)
    simp only [memSize] at hbound
    omega
  have hhigh := State.read_storeBytes_regsUpTo hs hok (k := 0) (Fin.zero_le x)
  have hlow := State.read_storeBytes_regsUpTo hs hok (k := 1) hx
  refine ⟨wordOfBytes (s.reg 0) (s.reg 1), ?_, ?_⟩
  · simp only [State.fetch, State.advance_mem, State.incIAfterBulk_mem]
    rw [if_pos hi]
    exact congrArg some (congrArg₂ wordOfBytes hhigh hlow)
  · exact toNat_wordOfBytes (s.reg 0) (s.reg 1)

end Sys2Proof

/-! Single instructions (spec 41_flow.md R92 to R94, 43_load_alu.md R117 to R122, 44_index_memory.md R132, R134,
45_timer_key.md R149 to R151), for O3 to O5, O10 to O13, O15 and O23 to O25: what each answers, and the arithmetic of
its results. -/

namespace Sys2Proof.Machine

variable (s : State)

/-! ### Control transfer -/

theorem exec_jpV0 (nnn : BitVec 12) : exec (.jpV0 nnn) s = .next (s.goto (zext nnn + zext (s.reg 0))) := rfl

theorem exec_call_of_lt (nnn : BitVec 12) (h : s.sp.val < 16) :
    exec (.call nnn) s = .next ((s.pushed (s.pc + 2) h).goto (zext nnn)) := by
  simp only [exec, execCall, State.push, dif_pos h, State.pushed]

theorem exec_call_of_full (nnn : BitVec 12) (h : s.sp.val = 16) :
    exec (.call nnn) s = .next (s.raise .stackOverflow (some (encode (.call nnn))) (some 16)) := by
  simp only [exec, execCall, State.push_eq_none.2 h, h]

theorem exec_ret_of_pos (h : 0 < s.sp.val) :
    exec .ret s = .next (s.popped.goto (s.stack[s.sp.val - 1]'(by omega))) := by
  simp only [exec, execRet, State.pop, dif_pos h, State.popped]

theorem exec_ret_of_empty (h : s.sp.val = 0) :
    exec .ret s = .next (s.raise .stackUnderflow (some 0x00EE#16) (some 0)) := by
  simp only [exec, execRet, State.pop_eq_none.2 h, h, encode]

/-! ### Operations with a flag -/

theorem exec_addReg (x y : Reg) : exec (.addReg x y) s =
    .next (s.setFlagged x (addResult (s.reg x) (s.reg y)) (addCarry (s.reg x) (s.reg y))).advance := rfl

theorem exec_subReg (x y : Reg) : exec (.subReg x y) s =
    .next (s.setFlagged x (subResult (s.reg x) (s.reg y)) (subNoBorrow (s.reg x) (s.reg y))).advance := rfl

theorem exec_subnReg (x y : Reg) : exec (.subnReg x y) s =
    .next (s.setFlagged x (subResult (s.reg y) (s.reg x)) (subNoBorrow (s.reg y) (s.reg x))).advance := rfl

theorem exec_shr (x y : Reg) :
    exec (.shr x y) s = .next (s.setFlagged x (shrResult (s.reg x)) (shrOut (s.reg x))).advance := rfl

theorem exec_shl (x y : Reg) :
    exec (.shl x y) s = .next (s.setFlagged x (shlResult (s.reg x)) (shlOut (s.reg x))).advance := rfl

theorem onlyRegs_setFlagged_advance (x : Reg) (r : Byte) (f : Bool) :
    OnlyRegs s (s.setFlagged x r f).advance [x, 15] := by
  have hregs : KeepsRegs s (s.setFlagged x r f).advance [x, 15] := by
    intro y hy
    obtain ⟨hyx, hyflag⟩ : y ≠ x ∧ y ≠ flagReg := by simpa [flagReg] using hy
    rw [State.reg_advance, State.reg_setFlagged, if_neg hyflag, if_neg hyx]
  refine ⟨hregs, ?_⟩
  simp [KeepsIndex, KeepsStack, KeepsTimers, KeepsScreen, KeepsMemory, KeepsEngine]

/-- An instruction that answers `setFlagged x r f` and `advance` leaves `r` in `V[x]`, unless that is the flag register,
and the flag in `V[15]`; it advances by 2 and changes nothing else. -/
theorem writesFlagged_of_exec_eq_setFlagged {s : State} {i : Instr} {x : Reg} {r : Byte} {f : Bool}
    (hexec : exec i s = .next (s.setFlagged x r f).advance) :
    ∃ t, exec i s = .next t ∧ (x ≠ 15 → t.reg x = r) ∧ t.reg 15 = flagByte f ∧ t.pc = s.pc + 2 ∧
      OnlyRegs s t [x, 15] := by
  refine ⟨_, hexec, fun hx => ?_, State.flag_setFlagged s x r f, State.advance_pc _,
    onlyRegs_setFlagged_advance s x r f⟩
  rw [State.reg_advance, State.reg_setFlagged, if_neg (show x ≠ flagReg from hx), if_pos rfl]

/-! ### Results and flags -/

theorem flagByte_of_true {f : Bool} (h : f = true) : flagByte f = 0x01 := by rw [h]; rfl

theorem flagByte_of_false {f : Bool} (h : f = false) : flagByte f = 0x00 := by rw [h]; rfl

theorem addCarry_eq_true {a b : Byte} (h : 255 < a.toNat + b.toNat) : addCarry a b = true := decide_eq_true h

theorem addCarry_eq_false {a b : Byte} (h : a.toNat + b.toNat ≤ 255) : addCarry a b = false :=
  decide_eq_false (Nat.not_lt.2 h)

theorem subNoBorrow_eq_true {a b : Byte} (h : b.toNat ≤ a.toNat) : subNoBorrow a b = true := decide_eq_true h

theorem subNoBorrow_eq_false {a b : Byte} (h : a.toNat < b.toNat) : subNoBorrow a b = false :=
  decide_eq_false (Nat.not_le.2 h)

theorem toNat_subResult_of_le {a b : Byte} (h : b.toNat ≤ a.toNat) : (subResult a b).toNat = a.toNat - b.toNat := by
  have := a.isLt
  rw [subResult, BitVec.toNat_ofNat]
  omega

theorem toNat_subResult_of_lt {a b : Byte} (h : a.toNat < b.toNat) :
    (subResult a b).toNat = a.toNat + 256 - b.toNat := by
  have := b.isLt
  rw [subResult, BitVec.toNat_ofNat]
  omega

theorem toNat_shrResult (a : Byte) : (shrResult a).toNat = a.toNat / 2 := by
  have := a.isLt
  rw [shrResult, BitVec.toNat_setWidth_of_le (by decide), BitVec.extractLsb'_toNat, Nat.shiftRight_eq_div_pow]
  omega

theorem toNat_shlResult (a : Byte) : (shlResult a).toNat = a.toNat * 2 % 256 := by
  rw [shlResult, BitVec.toNat_ofNat, Nat.mod_mod]

theorem toNat_flagByte_getLsbD (a : Byte) (k : Nat) : (flagByte (a.getLsbD k)).toNat = a.toNat / 2 ^ k % 2 := by
  rw [BitVec.getLsbD, Nat.testBit_eq_decide_div_mod_eq]
  by_cases h : a.toNat / 2 ^ k % 2 = 1
  · simp [h, flagByte]
  · have h0 : a.toNat / 2 ^ k % 2 = 0 := by omega
    simp [h0, flagByte]

/-- The difference, with its two cases, and the flag of a subtraction (43_load_alu.md R118, R120). -/
theorem subtracts_of_exec_eq {s : State} {i : Instr} {x : Reg} {a b : Byte}
    (hexec : exec i s = .next (s.setFlagged x (subResult a b) (subNoBorrow a b)).advance) :
    ∃ t, exec i s = .next t ∧
      (x ≠ 15 → (b.toNat ≤ a.toNat → (t.reg x).toNat = a.toNat - b.toNat) ∧
        (a.toNat < b.toNat → (t.reg x).toNat = a.toNat + 256 - b.toNat)) ∧
      (b.toNat ≤ a.toNat → t.reg 15 = 0x01) ∧ (a.toNat < b.toNat → t.reg 15 = 0x00) ∧
      t.pc = s.pc + 2 ∧ OnlyRegs s t [x, 15] := by
  obtain ⟨t, ht, hresult, hflag, hpc, honly⟩ := writesFlagged_of_exec_eq_setFlagged hexec
  refine ⟨t, ht, fun hx => ⟨fun hle => ?_, fun hlt => ?_⟩, fun hle => ?_, fun hlt => ?_, hpc, honly⟩
  · rw [hresult hx, toNat_subResult_of_le hle]
  · rw [hresult hx, toNat_subResult_of_lt hlt]
  · rw [hflag, flagByte_of_true (subNoBorrow_eq_true hle)]
  · rw [hflag, flagByte_of_false (subNoBorrow_eq_false hlt)]

/-! ### Random byte, index register, keys -/

theorem exec_rnd (x : Reg) (kk : Byte) : exec (.rnd x kk) s = .next (s.setReg x (s.rndByte &&& kk)).advance := rfl

theorem exec_addI (x : Reg) : exec (.addI x) s = .next (s.setI (s.i + zext (s.reg x))).advance := rfl

theorem exec_ldF (x : Reg) : exec (.ldF x) s = .next (s.setI (glyphAddress (s.reg x))).advance := rfl

theorem exec_skp (x : Reg) : exec (.skp x) s = .next (s.skipIf (s.env.keyHeld (s.reg x))) := rfl

theorem exec_sknp (x : Reg) : exec (.sknp x) s = .next (s.skipIf (!s.env.keyHeld (s.reg x))) := rfl

theorem exec_ldVxK_of_anyKey_eq_some (x : Reg) {k : Key} (h : s.env.anyKey = some k) :
    exec (.ldVxK x) s = .next (s.setReg x (keyByte k)).advance := by
  simp only [exec, execLdVxK, h]

theorem exec_ldVxK_of_anyKey_eq_none (x : Reg) (h : s.env.anyKey = none) : exec (.ldVxK x) s = .next s := by
  simp only [exec, execLdVxK, h]

theorem env_of_slot {s : State} {e : Env} {rest : List Input} (h : s.inputs = .slot e :: rest) : s.env = e := by
  rw [State.env, h]

theorem toNat_glyphAddress (v : Byte) : (glyphAddress v).toNat = 0x050 + 5 * v.toNat := by
  have := v.isLt
  rw [glyphAddress, BitVec.toNat_ofNat, glyphBase, glyphStride]
  omega

theorem toNat_add_zext (a : Word) (b : Byte) : (a + zext b).toNat = (a.toNat + b.toNat) % 65536 := by
  have hb : (zext b).toNat = b.toNat := toNat_zext (by decide) b
  rw [BitVec.toNat_add, hb]

theorem toNat_keyByte (k : Key) : (keyByte k).toNat = k.val := by
  have := k.isLt
  rw [keyByte, BitVec.toNat_ofNat]
  omega

theorem keyHeld_eq_true_iff {e : Env} {k : Byte} : e.keyHeld k = true ↔ ∃ j ∈ e.keys, j.val = k.toNat := by
  simp [Env.keyHeld]

theorem keyHeld_eq_false_iff {e : Env} {k : Byte} : e.keyHeld k = false ↔ ∀ j ∈ e.keys, j.val ≠ k.toNat := by
  simp [Env.keyHeld]

end Sys2Proof.Machine

namespace Sys2Proof

open Machine

/-- Settles O3: the sum of a 12-bit and an 8-bit value does not wrap in 16 bits. -/
theorem jpV0AddsRegisterZero : Obligations.JpV0AddsRegisterZero := fun nnn s =>
  ⟨decodeWord_encode (i := .jpV0 nnn) rfl, _, exec_jpV0 s nnn, toNat_zext_add_zext nnn (s.reg 0), onlyPc_goto s _⟩

/-- Settles O4: a push writes the entry at the old `SP` alone, and a full stack is a fault entry. -/
theorem callPushesTheReturnAddress : Obligations.CallPushesTheReturnAddress := by
  intro nnn s
  refine ⟨decodeWord_encode (i := .call nnn) rfl, fun h => ?_, fun h => ?_⟩
  · have hother (j : Fin 16) (hj : j.val ≠ s.sp.val) : (s.stack.set s.sp.val (s.pc + 2))[j] = s.stack[j] :=
      Vector.getElem_set_ne _ _ hj.symm
    have hframe : KeepsRegs s ((s.pushed (s.pc + 2) h).goto (zext nnn)) [] := fun _ _ => rfl
    exact ⟨_, exec_call_of_lt s nnn h, Vector.getElem_set_self _, hother, rfl, toNat_zext (by decide) nnn, hframe, rfl,
      ⟨rfl, rfl⟩, fun _ _ => rfl, fun _ => rfl, rfl, rfl, rfl, rfl, rfl, rfl⟩
  · exact ⟨_, exec_call_of_full s nnn h, rfl⟩

/-- Settles O5: a pop keeps every entry, so the one that a call pushed is the one that the return finds. -/
theorem retPopsTheReturnAddress : Obligations.RetPopsTheReturnAddress := by
  refine ⟨by decide, fun s => ⟨fun h => ?_, fun h => ?_, fun nnn h => ?_⟩⟩
  · have hframe : KeepsRegs s (s.popped.goto (s.stack[s.sp.val - 1]'(by omega))) [] := fun _ _ => rfl
    exact ⟨_, exec_ret_of_pos s h, rfl, rfl, fun _ => rfl, hframe, rfl, ⟨rfl, rfl⟩, fun _ _ => rfl, fun _ => rfl, rfl,
      rfl, rfl, rfl, rfl, rfl⟩
  · exact ⟨_, exec_ret_of_empty s h, rfl⟩
  · have hpos : 0 < ((s.pushed (s.pc + 2) h).goto (zext nnn)).sp.val := Nat.succ_pos _
    exact ⟨_, _, exec_call_of_lt s nnn h, exec_ret_of_pos _ hpos, Vector.getElem_set_self _, rfl⟩

/-- Settles O10: the carry is the comparison of the sum of the old operands with 255. -/
theorem addSetsTheCarry : Obligations.AddSetsTheCarry := by
  intro x y s
  obtain ⟨t, ht, hresult, hflag, hpc, honly⟩ := writesFlagged_of_exec_eq_setFlagged (exec_addReg s x y)
  refine ⟨decodeWord_encode (i := .addReg x y) rfl, t, ht, fun hx => ?_, fun hgt => ?_, fun hle => ?_, hpc, honly⟩
  · rw [hresult hx, toNat_addResult]
  · rw [hflag, flagByte_of_true (addCarry_eq_true hgt)]
  · rw [hflag, flagByte_of_false (addCarry_eq_false hle)]

/-- Settles O11: SUB and SUBN are one subtraction with the operands exchanged. -/
theorem subtractionsSetNoBorrow : Obligations.SubtractionsSetNoBorrow := fun x y s =>
  ⟨decodeWord_encode (i := .subReg x y) rfl, decodeWord_encode (i := .subnReg x y) rfl,
    subtracts_of_exec_eq (exec_subReg s x y), subtracts_of_exec_eq (exec_subnReg s x y)⟩

/-- Settles O12: the flags are bits 0 and 7 of the old value. -/
theorem shiftsSetTheBitShiftedOut : Obligations.ShiftsSetTheBitShiftedOut := by
  intro x y s
  refine ⟨decodeWord_encode (i := .shr x y) rfl, decodeWord_encode (i := .shl x y) rfl, ?_, ?_⟩
  · obtain ⟨t, ht, hresult, hflag, hpc, honly⟩ := writesFlagged_of_exec_eq_setFlagged (exec_shr s x y)
    refine ⟨t, ht, fun hx => ?_, ?_, hpc, honly⟩
    · rw [hresult hx, toNat_shrResult]
    · rw [hflag, shrOut, toNat_flagByte_getLsbD]
      omega
  · obtain ⟨t, ht, hresult, hflag, hpc, honly⟩ := writesFlagged_of_exec_eq_setFlagged (exec_shl s x y)
    have hlt := (s.reg x).isLt
    refine ⟨t, ht, fun hx => ?_, ?_, hpc, honly⟩
    · rw [hresult hx, toNat_shlResult]
    · rw [hflag, shlOut, toNat_flagByte_getLsbD]
      omega

/-- Settles O13: the drawn byte is that of the sample, and a mask clears its clear bits. -/
theorem rndMasksTheDrawnByte : Obligations.RndMasksTheDrawnByte := by
  intro x kk s
  obtain ⟨t, ht, hx, hpc, honly⟩ := writesReg_of_exec_eq_setReg (exec_rnd s x kk)
  refine ⟨decodeWord_encode (i := .rnd x kk) rfl, t, ht, ⟨s.rndByte, fun e rest h => ?_, hx⟩, fun b _ hb => ?_, hpc,
    honly⟩
  · rw [State.rndByte, env_of_slot h]
  · rw [hx, BitVec.getLsbD_and, hb, Bool.and_false]

/-- Settles O15: the 16-bit sum wraps, and the largest glyph address, 0x050 + 5 * 255, does not. -/
theorem addToIndexAndGlyphAddress : Obligations.AddToIndexAndGlyphAddress := fun x s =>
  ⟨decodeWord_encode (i := .addI x) rfl, decodeWord_encode (i := .ldF x) rfl,
    ⟨_, exec_addI s x, toNat_add_zext s.i (s.reg x), State.advance_pc _, onlyIndex_setI_advance s _⟩,
    ⟨_, exec_ldF s x, toNat_glyphAddress (s.reg x), State.advance_pc _, onlyIndex_setI_advance s _⟩⟩

/-- Settles O23: SKP and SKNP answer `skipIf` of the key query and of its negation. -/
theorem keySkipsTestTheKey : Obligations.KeySkipsTestTheKey := by
  intro x s
  refine ⟨decodeWord_encode (i := .skp x) rfl, decodeWord_encode (i := .sknp x) rfl, ?_, ?_⟩
  · exact skips_of_exec_eq_skipIf (exec_skp s x) keyHeld_eq_true_iff.2 keyHeld_eq_false_iff.2
  · obtain ⟨t, ht, hskip, hpass, honly⟩ := skips_of_exec_eq_skipIf (exec_sknp s x)
      (fun h => by rw [keyHeld_eq_false_iff.2 h]; rfl) (fun h => by rw [keyHeld_eq_true_iff.2 h]; rfl)
    exact ⟨t, ht, hpass, hskip, honly⟩

/-- Settles O24: the query reports a held key whenever there is one, and the pick if it is held. -/
theorem keyWaitLoadsAHeldKey : Obligations.KeyWaitLoadsAHeldKey := by
  intro x s
  refine ⟨decodeWord_encode (i := .ldVxK x) rfl, fun hheld => ?_, fun hnone => ?_⟩
  · obtain ⟨k, hk⟩ := Option.ne_none_iff_exists'.1 (mt Env.anyKey_eq_none.1 hheld)
    obtain ⟨t, ht, hx, hpc, honly⟩ := writesReg_of_exec_eq_setReg (exec_ldVxK_of_anyKey_eq_some s x hk)
    refine ⟨t, ht, ⟨k, Env.anyKey_mem hk, by rw [hx, toNat_keyByte]⟩, fun hpick => ?_, hpc, honly⟩
    have hpicked : k = s.env.pick := Option.some.inj (hk.symm.trans (Env.anyKey_of_pick hpick))
    rw [hx, toNat_keyByte, hpicked]
  · exact exec_ldVxK_of_anyKey_eq_none s x (Env.anyKey_eq_none.2 hnone)

/-- Settles O25: a key code is below 16, and the laws of the two queries. -/
theorem keyQueriesAnswerFromTheSample : Obligations.KeyQueriesAnswerFromTheSample := by
  refine ⟨fun _ _ _ => env_of_slot, fun e => ⟨fun k => ?_, Env.anyKey_eq_none, fun _ => Env.anyKey_mem,
    Env.anyKey_of_pick⟩⟩
  rw [keyHeld_eq_true_iff]
  constructor
  · rintro ⟨j, hj, hjk⟩
    exact ⟨by omega, j, hj, hjk⟩
  · exact And.right

end Sys2Proof

/-! The step and the frame engine (spec 40_step_cycle.md R80 to R82; 60_exceptions.md R175 to R187), for O30 to O34, O37
and O39 to O42: the slot accounting by its cases, the step of a state that takes one, and the other transitions. -/

namespace Sys2Proof.Machine

variable {s t u : State}

/-! ### The slot accounting -/

theorem endSlot_of_fault (yielded : Bool) (h : t.run ≠ .running) : endSlot yielded t = t := by
  simp [endSlot, endsFrame, h]

theorem endSlot_of_endsFrame {yielded : Bool} (h : endsFrame yielded t = true) : endSlot yielded t = t.endOfFrame :=
  if_pos h

theorem endSlot_of_not_endsFrame {yielded : Bool} (h : endsFrame yielded t = false) (hrun : t.run = .running) :
    endSlot yielded t = { t with slot := t.slot + 1 } := by
  simp [endSlot, h, hrun]

theorem endsFrame_eq_true_iff {yielded : Bool} : endsFrame yielded t = true ↔
    t.run = .running ∧ (yielded = true ∨ t.slot + 1 = t.cfg.stepsPerFrame) := by
  simp [endsFrame]

theorem tickTimer_eq_ofNat (b : Byte) : tickTimer b = BitVec.ofNat 8 (b.toNat - 1) := by
  apply BitVec.eq_of_toNat_eq
  have := b.isLt
  rw [toNat_tickTimer, BitVec.toNat_ofNat]
  omega

theorem yields_eq_true_iff {i : Instr} : yields i s = true ↔ (∃ x, i = .ldVxK x) ∧ s.env.keys = [] := by
  cases i <;> simp [yields, Env.anyKey_eq_none]

/-! ### The step of a state that takes one -/

theorem State.fetch_of_le (h : s.pc.toNat ≤ 0x0FFE) :
    s.fetch = some (wordOfBytes (s.mem.read s.pc.toNat) (s.mem.read (s.pc.toNat + 1))) :=
  if_pos h

theorem State.fetch_of_gt (h : 0x0FFE < s.pc.toNat) : s.fetch = none :=
  if_neg (Nat.not_le.2 h)

theorem decodeWord_of_decodeBytes {hi lo : Byte} {i : Instr} (h : decodeBytes [hi, lo] = .ok (i, [])) :
    decodeWord (wordOfBytes hi lo) = .ok i := by
  rw [decodeBytes] at h
  split at h
  · cases h; assumption
  · cases h

theorem yieldsNow_of_decodeWord_eq_ok {w : Word} {i : Instr} (hw : s.fetch = some w) (hi : decodeWord w = .ok i) :
    yieldsNow s = yields i s := by
  simp only [yieldsNow, hw, hi]

/-- A step that does not leave the core running is a fault entry and nothing else. -/
theorem stepOnce_eq_raise_of_run_ne (h : stepOnce s = .next u) (hs : s.run = .running) (hu : u.run ≠ .running) :
    ∃ c w n, u = s.raise c w n := by
  obtain hraise | ⟨w, i, -, -, hexec⟩ := stepOnce_cases h
  · exact hraise
  · obtain ⟨c, a, -, hraise⟩ := exec_eq_raise_of_run_ne hexec (hs ▸ hu)
    exact ⟨c, _, _, hraise⟩

/-- The transition of a step that faults adds nothing but the input taken. -/
theorem step_of_stepOnce_raise (hs : s.TakesStep) {c : FaultCause} {w : Option Word} {n : Option Nat}
    (h : stepOnce s = .next (s.raise c w n)) : step s = .next (s.raise c w n).afterInput := by
  rw [step_of_takesStep hs h, endSlot_of_fault _ (by simp)]
  rfl

theorem takesStep_eq_true_iff : takesStep s = true ↔ s.TakesStep := by
  unfold takesStep State.TakesStep
  split
  next image rest hinputs => simp [hinputs]
  next hinputs =>
    have hreset : ∀ image rest, s.inputs ≠ .reset image :: rest := hinputs
    simp [hreset, Nat.one_le_iff_ne_zero, and_assoc]

theorem rendered_of_takesStep (hs : s.TakesStep) (h : stepOnce s = .next u) :
    rendered s = if endsFrame (yieldsNow s) u then some u.fb else none := by
  rw [rendered, if_pos (takesStep_eq_true_iff.2 hs), h]

theorem takesStep_of_rendered {f : Framebuffer} (h : rendered s = some f) : s.TakesStep := by
  rw [← takesStep_eq_true_iff]
  by_contra hno
  rw [rendered, if_neg hno] at h
  cases h

/-! ### Transitions without a step -/

theorem step_of_reset {image : Option (List Byte)} {rest : List Input} (h : s.inputs = .reset image :: rest) :
    step s = .next (s.takeReset image) := by
  simp only [step, transition, h]

theorem step_of_no_reset (h : ∀ image rest, s.inputs ≠ .reset image :: rest) :
    step s = if s.run = .running then slot s else .next s.takeInput := by
  unfold step transition
  split
  next image rest hinputs => exact absurd hinputs (h image rest)
  next => cases s.run <;> rfl

theorem slot_of_stop (h : s.env.stop = true) : slot s = .next { s.takeInput with run := .stopped } := if_pos h

theorem run_succ_of_step (M : Host.Core) (k : Nat) {s s' : M.State} (h : M.step s = .next s') :
    M.run (k + 1) s = M.run k s' := by
  rw [Host.Core.run, h]

/-- A core that is not running lets any number of inputs pass that are no reset events (60_exceptions.md R176). -/
theorem run_of_not_running (k : Nat) (hrun : s.run ≠ .running) (hreset : ∀ image, Input.reset image ∉ s.inputs) :
    Host.Core.run core k s = .next ({ s with inputs := s.inputs.drop k, taken := s.taken + k } : State) := by
  induction k generalizing s with
  | zero => rfl
  | succ k ih =>
    have hhead : ∀ image rest, s.inputs ≠ .reset image :: rest := fun image rest h =>
      hreset image (h ▸ List.mem_cons_self)
    have hstep : core.step s = .next s.takeInput := (step_of_no_reset hhead).trans (if_neg hrun)
    have hrest : ∀ image, Input.reset image ∉ s.takeInput.inputs := fun image h => hreset image (List.mem_of_mem_tail h)
    refine (run_succ_of_step core k hstep).trans ((ih (s := s.takeInput) hrun hrest).trans ?_)
    simp [State.takeInput, Nat.add_assoc, Nat.add_comm 1 k]

/-- Every transition under a legal STEPS_PER_FRAME answers, and the one stop of the model needs 0 and a running core. -/
theorem step_answers (s : State) :
    (∃ t, step s = .next t) ∨ (step s = .fault .noSlotInFrame ∧ s.cfg.stepsPerFrame = 0 ∧ s.run = .running) := by
  by_cases hreset : ∃ image rest, s.inputs = .reset image :: rest
  · obtain ⟨image, rest, hinputs⟩ := hreset
    exact .inl ⟨_, step_of_reset hinputs⟩
  · have hno : ∀ image rest, s.inputs ≠ .reset image :: rest := by simpa using hreset
    rw [step_of_no_reset hno]
    split_ifs with hrun
    · unfold slot
      obtain ⟨u, hu⟩ := stepOnce_answers s
      split_ifs with hstop hzero
      · exact .inl ⟨_, rfl⟩
      · exact .inr ⟨rfl, hzero, hrun⟩
      · rw [hu]
        exact .inl ⟨_, rfl⟩
    · exact .inl ⟨_, rfl⟩

/-! ### Ends of frames -/

/-- After `k` ends of frame the timers are lower by `k`, cut off at 0. -/
theorem iterate_endOfFrame (s : State) (k : Nat) : (State.endOfFrame)^[k] s =
    { s with dt := BitVec.ofNat 8 (s.dt.toNat - k), st := BitVec.ofNat 8 (s.st.toNat - k),
             slot := if k = 0 then s.slot else 0 } := by
  induction k with
  | zero => simp
  | succ k ih =>
    have htick (b : Byte) : tickTimer (BitVec.ofNat 8 (b.toNat - k)) = BitVec.ofNat 8 (b.toNat - (k + 1)) := by
      have hlt : b.toNat - k < 256 := by have := b.isLt; omega
      rw [tickTimer_eq_ofNat, BitVec.toNat_ofNat, Nat.mod_eq_of_lt hlt, Nat.sub_sub]
    rw [Function.iterate_succ_apply', ih]
    simp [State.endOfFrame, htick]

end Sys2Proof.Machine

namespace Sys2Proof

open Machine

/-- Settles O30: the fetch and the decoder find `i`, and the slot accounting is around its execution. -/
theorem stepRunsTheDecodedInstruction : Obligations.StepRunsTheDecodedInstruction := by
  intro s i hs hpc hbytes
  have hfetch := State.fetch_of_le hpc
  have hdecode := decodeWord_of_decodeBytes hbytes
  obtain ⟨t, ht⟩ := exec_answers i s
  refine ⟨t, ht, ?_⟩
  rw [← yieldsNow_of_decodeWord_eq_ok hfetch hdecode]
  exact step_of_takesStep hs ((stepOnce_of_decodeWord_eq_ok hfetch hdecode).trans ht)

/-- Settles O31: the three cases of `endSlot`, a tick being a truncated subtraction. -/
theorem slotAccountingOfAStep : Obligations.SlotAccountingOfAStep := by
  refine fun yielded t => ⟨fun hrun hyield hslot => ?_, fun hrun hend => ?_, endSlot_of_fault yielded,
    fun i => yields_eq_true_iff⟩
  · have hno : endsFrame yielded t = false := by simp [endsFrame, hyield, hslot]
    exact endSlot_of_not_endsFrame hno hrun
  · rw [endSlot_of_endsFrame (endsFrame_eq_true_iff.2 ⟨hrun, hend⟩), State.endOfFrame, tickTimer_eq_ofNat,
      tickTimer_eq_ofNat]

/-- Settles O32, by induction on the number of ends of frame. -/
theorem timersCountDownToZeroAndStay : Obligations.TimersCountDownToZeroAndStay := by
  intro s k
  have hbyte (b : Byte) : (BitVec.ofNat 8 (b.toNat - k)).toNat = b.toNat - k := by
    have := b.isLt
    rw [BitVec.toNat_ofNat]
    omega
  rw [iterate_endOfFrame]
  exact ⟨_, rfl, hbyte s.dt, hbyte s.st, rfl⟩

/-- Settles O33: a framebuffer is presented exactly where `endsFrame` has the slot accounting end the frame. -/
theorem renderPresentsTheEndOfFrame : Obligations.RenderPresentsTheEndOfFrame := by
  intro s t h
  obtain ⟨u, hu⟩ := stepOnce_answers s
  constructor
  · intro f hf
    have hs := takesStep_of_rendered hf
    rw [rendered_of_takesStep hs hu] at hf
    split_ifs at hf with hend
    cases hf
    cases (step_of_takesStep hs hu).symm.trans h
    rw [endSlot_of_endsFrame hend]
    exact ⟨hs, rfl, rfl, (endsFrame_eq_true_iff.1 hend).1⟩
  · intro hf hs hrun
    rw [rendered_of_takesStep hs hu] at hf
    split_ifs at hf with hend
    cases (step_of_takesStep hs hu).symm.trans h
    rw [State.takeInput_run, endSlot_run] at hrun
    rw [endSlot_of_not_endsFrame (Bool.eq_false_iff.2 hend) hrun]
    exact ⟨u, hu, rfl, rfl, rfl⟩

/-- Settles O34: there is no fetch, so the step is the entry of PcBounds. -/
theorem fetchPastTheEndHalts : Obligations.FetchPastTheEndHalts := fun _ hs hpc =>
  ⟨_, step_of_stepOnce_raise hs (stepOnce_of_fetch_eq_none (State.fetch_of_gt hpc)), rfl⟩

/-- Settles O37: a step that halts is a fault entry, to which the slot accounting adds nothing. -/
theorem faultsArePrecise : Obligations.FaultsArePrecise := by
  intro s t hs h ht
  obtain ⟨u, hu⟩ := stepOnce_answers s
  have hrun : u.run ≠ .running := by
    cases (step_of_takesStep hs hu).symm.trans h
    simpa using ht
  obtain ⟨c, w, n, rfl⟩ := stepOnce_eq_raise_of_run_ne hu hs.1 hrun
  cases (step_of_stepOnce_raise hs hu).symm.trans h
  exact ⟨_, rfl, rfl⟩

/-- Settles O39: the stop request is looked at before the step. -/
theorem stopRequestStopsBeforeTheStep : Obligations.StopRequestStopsBeforeTheStep := by
  intro s hrun hreset hstop
  rw [step_of_no_reset hreset, if_pos hrun, slot_of_stop hstop]
  rfl

/-- Settles O40, by induction on the number of transitions. -/
theorem haltedAndStoppedAreAbsorbing : Obligations.HaltedAndStoppedAreAbsorbing := fun _ => run_of_not_running

/-- Settles O41: a reset event is looked at first, whatever the run state. -/
theorem resetEventDiscardsEverything : Obligations.ResetEventDiscardsEverything := by
  intro s image rest h
  rw [step_of_reset h, State.takeReset, h, List.tail_cons]

/-- Settles O42: with STEPS_PER_FRAME at least 1 the one stop of the model is out of reach. -/
theorem everyStepAnswersANextState : Obligations.EveryStepAnswersANextState := by
  intro s
  obtain ⟨t, ht⟩ | ⟨hfault, hzero, hrun⟩ := step_answers s
  · simp [ht]
  · simp [hfault, hzero, hrun]

end Sys2Proof

/-! Reset (spec 70_reset_and_hazards.md R210 to R213), for O36 and O43 to O45: the two outcomes of a reset, and the
memory that it lays out. -/

namespace Sys2Proof.Machine

variable {cfg : Config} {bytes : List Byte}

theorem resetWith_of_length_le (cfg : Config) (h : bytes.length ≤ 3584) :
    resetWith cfg (some bytes) = { resetBase cfg with mem := (resetMemory cfg).writeBytes progBase bytes } :=
  if_neg (Nat.not_lt.2 h)

/-- An absent or over-long image is a load fault, with the length of the image as its info. -/
theorem resetWith_of_loadFault (cfg : Config) {image : Option (List Byte)}
    (h : ∀ bytes, image = some bytes → 3584 < bytes.length) :
    resetWith cfg image = (resetBase cfg).raise .loadFault none (image.map List.length) := by
  cases image with
  | none => rfl
  | some bytes => exact if_pos (h bytes rfl)

/-- Memory after the load of a legal image. -/
theorem read_resetWith (hcfg : cfg.wf) (h : bytes.length ≤ 3584) (a : Nat) :
    (resetWith cfg (some bytes)).mem.read a =
      if 0x200 ≤ a ∧ a < 0x200 + bytes.length then bytes.getD (a - 0x200) 0 else cfg.memFill.read a := by
  have hle : progBase + bytes.length ≤ memSize := by
    simp only [progBase, memSize]
    omega
  rw [resetWith_of_length_le cfg h, ← resetMemory_eq hcfg]
  exact Memory.read_writeBytes (resetMemory_wf hcfg) hle a

end Sys2Proof.Machine

namespace Sys2Proof

open Machine

/-- Settles O36: both are fault entries, the one at the state of the step and the other at the reset state. -/
theorem faultRecordsCarryTheirInfo : Obligations.FaultRecordsCarryTheirInfo := by
  refine ⟨fun s w e hs hw he => ?_, fun cfg image h => ?_, by decide⟩
  · exact ⟨_, step_of_stepOnce_raise hs (stepOnce_of_decodeWord_eq_error hw he), rfl⟩
  · rw [resetWith_of_loadFault cfg h]
    rfl

/-- Settles O43: the unlisted bytes of an empty memory are the glyph table and 0x00. -/
theorem resetStateHasTheResetValues : Obligations.ResetStateHasTheResetValues := by
  have hglyphs (k : Fin 80) : State.reset.mem.read (0x050 + k.val) = glyphs.getD k.val 0x00 := unlisted_glyph k k.isLt
  have hfill (a : Nat) (ha : a < 0x050 ∨ 0x0A0 ≤ a) : State.reset.mem.read a = 0x00 := by
    have hout : inGlyphTable a = false := inGlyphTable_eq_false.2 ha
    simp [State.reset, Memory.read, unlisted, hout]
  exact ⟨rfl, Framebuffer.px_blank, hglyphs, hfill, by decide, rfl, rfl, by decide, rfl, rfl, rfl, rfl, rfl, rfl⟩

/-- Settles O44: the three ranges are disjoint, so each read is that of the last writer of its range. -/
theorem resetLoadsTheImage : Obligations.ResetLoadsTheImage := by
  intro cfg image hcfg hlen
  have hglyphs : cfg.memFill.glyphsIntact := Memory.glyphsIntact_of_unlisted hcfg.2.2.2
  refine ⟨_, rfl, (resetWith_inv hcfg (some image)).mem_wf, fun k hk => ?_, fun k hk => ?_, fun a ha => ?_, ?_⟩
  · rw [read_resetWith hcfg hlen, if_pos (by omega), Nat.add_sub_cancel_left, List.getD_eq_getElem _ _ hk]
  · rw [read_resetWith hcfg hlen, if_neg (by omega)]
    exact hglyphs k hk
  · rw [read_resetWith hcfg hlen, if_neg (by omega)]
  · rw [resetWith_of_length_le cfg hlen]
    rfl

/-- Settles O45: a load fault is a fault entry at the reset state, and a halted core lets its inputs pass. -/
theorem loadFaultStartsHalted : Obligations.LoadFaultStartsHalted := by
  constructor
  · intro cfg image h
    rw [resetWith_of_loadFault cfg h]
    refine ⟨⟨_, rfl, rfl⟩, fun q k hq => ?_⟩
    rw [run_of_not_running k (by simp) hq]
    simp [resetBase, State.reset]
  · intro cfg bytes h
    rw [resetWith_of_length_le cfg h]
    exact ⟨rfl, rfl⟩

end Sys2Proof

/-! The opcode map (spec 30_encoding.md R66), for O57: which fields the masks of the map test, that every instruction is
in its row, that an illegal word is in none, and when two rows have a word in common. -/

namespace Sys2Proof

/-! ### The fields under a mask -/

section
variable {w m p : Word}

theorem catOf_eq_of_and_eq (hm : catOf m = 0xF#4) (h : w &&& m = p) : catOf w = catOf p := by
  rw [← h, catOf, catOf, BitVec.extractLsb'_and, ← catOf, ← catOf, hm]
  exact BitVec.and_allOnes.symm

theorem nibbleOf_eq_of_and_eq (hm : nibbleOf m = 0xF#4) (h : w &&& m = p) : nibbleOf w = nibbleOf p := by
  rw [← h, nibbleOf, nibbleOf, BitVec.extractLsb'_and, ← nibbleOf, ← nibbleOf, hm]
  exact BitVec.and_allOnes.symm

theorem imm8Of_eq_of_and_eq (hm : imm8Of m = 0xFF#8) (h : w &&& m = p) : imm8Of w = imm8Of p := by
  rw [← h, imm8Of, imm8Of, BitVec.extractLsb'_and, ← imm8Of, ← imm8Of, hm]
  exact BitVec.and_allOnes.symm

end

section
variable (c n : BitVec 4) (x y : Reg) (kk : Byte)

theorem nibble_and_ones : c &&& 0xF#4 = c := BitVec.and_allOnes

theorem byte_and_ones : kk &&& 0xFF#8 = kk := BitVec.and_allOnes

theorem formatNNN_and_mask (nnn : BitVec 12) : formatNNN c nnn &&& 0xF000 = formatNNN c 0 := by
  rw [show (0xF000 : Word) = 0xF#4 ++ 0x000#12 from rfl, formatNNN, BitVec.and_append, nibble_and_ones, BitVec.and_zero]
  rfl

theorem formatXKK_and_mask : formatXKK c x kk &&& 0xF000 = formatXKK c 0 0 := by
  rw [show (0xF000 : Word) = 0xF#4 ++ 0x0#4 ++ 0x00#8 from rfl, formatXKK, BitVec.and_append, BitVec.and_append,
    nibble_and_ones, BitVec.and_zero, BitVec.and_zero]
  rfl

theorem formatXSS_and_mask : formatXSS c x kk &&& 0xF0FF = formatXSS c 0 kk := by
  rw [show (0xF0FF : Word) = 0xF#4 ++ 0x0#4 ++ 0xFF#8 from rfl, formatXSS, BitVec.and_append, BitVec.and_append,
    nibble_and_ones, byte_and_ones, BitVec.and_zero]
  rfl

theorem formatXYN_and_mask : formatXYN c x y n &&& 0xF000 = formatXYN c 0 0 0 := by
  rw [show (0xF000 : Word) = 0xF#4 ++ 0x0#4 ++ 0x0#4 ++ 0x0#4 from rfl, formatXYN, BitVec.and_append, BitVec.and_append,
    BitVec.and_append, nibble_and_ones, BitVec.and_zero, BitVec.and_zero, BitVec.and_zero]
  rfl

theorem formatXYN_and_mask_nibble : formatXYN c x y n &&& 0xF00F = formatXYN c 0 0 n := by
  rw [show (0xF00F : Word) = 0xF#4 ++ 0x0#4 ++ 0x0#4 ++ 0xF#4 from rfl, formatXYN, BitVec.and_append, BitVec.and_append,
    BitVec.and_append, nibble_and_ones, nibble_and_ones, BitVec.and_zero, BitVec.and_zero]
  rfl

end

/-! ### The rows -/

/-- A word is in a row: it has the row's pattern under the row's mask. -/
def MatchesRow (w : Word) (r : OpcodeRow) : Prop := w &&& r.mask = r.pattern

theorem opcodeRowOf_lt (i : Instr) : opcodeRowOf i < opcodeMap.length := by
  cases i <;> simp [opcodeRowOf, opcodeMap]

theorem encode_matchesRow (i : Instr) : MatchesRow (encode i) (opcodeMap[opcodeRowOf i]'(opcodeRowOf_lt i)) := by
  cases i
  case cls | ret => unfold MatchesRow; decide
  case sys | jp | call | ldI | jpV0 => exact formatNNN_and_mask _ _
  case seImm | sneImm | ldImm | addImm | rnd => exact formatXKK_and_mask _ _ _
  case seReg | sneReg | drw => exact formatXYN_and_mask _ _ _ _
  case ldReg | orReg | andReg | xorReg | addReg | subReg | shr | subnReg | shl =>
    exact formatXYN_and_mask_nibble _ _ _ _
  case skp | sknp | ldVxDT | ldVxK | ldDTVx | ldSTVx | addI | ldF | ldB | ldMemVx | ldVxMem =>
    exact formatXSS_and_mask _ _ _

/-- The rows of the three sub-dispatched categories test the sub-code and name a legal one. -/
theorem rows_test_subcodes : ∀ r ∈ opcodeMap, catOf r.mask = 0xF#4 ∧
    (catOf r.pattern = 0x8#4 → nibbleOf r.mask = 0xF#4 ∧ nibbleOf r.pattern ∉ illegalNibbles8) ∧
    (catOf r.pattern = 0xE#4 → imm8Of r.mask = 0xFF#8 ∧ imm8Of r.pattern ∈ subcodesE) ∧
    (catOf r.pattern = 0xF#4 → imm8Of r.mask = 0xFF#8 ∧ imm8Of r.pattern ∈ subcodesF) := by
  decide

/-- A word that a row matches is legal. -/
theorem decodeWord_ne_error_of_matchesRow {r : OpcodeRow} (hr : r ∈ opcodeMap) {w : Word} (h : MatchesRow w r)
    (e : DecodeError) : decodeWord w ≠ .error e := by
  intro he
  obtain ⟨hmask, h8, hE, hF⟩ := rows_test_subcodes r hr
  rw [← catOf_eq_of_and_eq hmask h] at h8 hE hF
  obtain ⟨hc, hsub⟩ | ⟨hc, hsub⟩ | ⟨hc, hsub⟩ := (decodeWord_error_iff w).1 ⟨e, he⟩
  · obtain ⟨hm, hlegal⟩ := h8 hc
    exact hlegal (nibbleOf_eq_of_and_eq hm h ▸ hsub)
  · obtain ⟨hm, hlegal⟩ := hE hc
    exact hsub (imm8Of_eq_of_and_eq hm h ▸ hlegal)
  · obtain ⟨hm, hlegal⟩ := hF hc
    exact hsub (imm8Of_eq_of_and_eq hm h ▸ hlegal)

/-- Two rows with a word in common have patterns that agree on the bits that both test. -/
theorem patterns_agree_of_matchesRow {r r' : OpcodeRow} {w : Word} (h : MatchesRow w r) (h' : MatchesRow w r') :
    r.pattern &&& r'.mask = r'.pattern &&& r.mask := by
  rw [← h, ← h', BitVec.and_assoc, BitVec.and_assoc, BitVec.and_comm r.mask]

/-- Only SYS has a pattern that agrees with that of a row before it. -/
theorem eq_sys_of_patterns_agree : ∀ j k : Fin opcodeMap.length, j < k →
    opcodeMap[j].pattern &&& opcodeMap[k].mask = opcodeMap[k].pattern &&& opcodeMap[j].mask → k.val = 2 := by
  decide

/-- Settles O57: a decoded word is the encoding of its instruction, which is in its row; a word in a row has a legal
sub-code; and rows overlap only where their patterns agree on the common mask. -/
theorem decoderAgreesWithTheOpcodeMap : Obligations.DecoderAgreesWithTheOpcodeMap := by
  refine ⟨fun w i hi => ?_, fun w e he r hr h => decodeWord_ne_error_of_matchesRow hr h e he, ?_⟩
  · obtain ⟨hw, -⟩ := decodeWord_standsFor hi
    rw [← hw]
    exact ⟨opcodeRowOf_lt i, encode_matchesRow i⟩
  · intro w j k hj hk hjk hmj hmk
    exact eq_sys_of_patterns_agree ⟨j, hj⟩ ⟨k, hk⟩ hjk (patterns_agree_of_matchesRow hmj hmk)

end Sys2Proof

/-! The draw (spec 46_display.md R162), for O27 and O28: the nested loop is one pass over the list of the pixels under a
1 bit of the sprite; no pixel is in that list twice, so the pass flips each of them once. -/

namespace Sys2Proof.Machine

/-- A row and a column of the framebuffer. -/
abbrev Pixel := Fin 32 × Fin 64

/-! ### A pass over a list of pixels -/

/-- The single-pixel step at each pixel of a list, in order. -/
def drawPixels (ps : List Pixel) (d : Drawing) : Drawing := ps.foldl (fun d p => drawPixel p.1 p.2 d) d

theorem drawPixels_append (ps qs : List Pixel) (d : Drawing) :
    drawPixels (ps ++ qs) d = drawPixels qs (drawPixels ps d) :=
  List.foldl_append

theorem px_drawPixels {ps : List Pixel} (hps : ps.Nodup) (d : Drawing) (r : Fin 32) (c : Fin 64) :
    (drawPixels ps d).1.px r c = if (r, c) ∈ ps then !d.1.px r c else d.1.px r c := by
  induction ps generalizing d with
  | nil => rfl
  | cons p ps ih =>
    obtain ⟨hp, hps⟩ := List.nodup_cons.1 hps
    have hstep : (drawPixel p.1 p.2 d).1.px r c = if (r, c) = p then !d.1.px r c else d.1.px r c := by
      rw [drawPixel, Framebuffer.px_flip]
      by_cases h : (r, c) = p
      · subst h; simp
      · rw [if_neg h, if_neg fun ⟨hr, hc⟩ => h (Prod.ext hr hc)]
    rw [show drawPixels (p :: ps) d = drawPixels ps (drawPixel p.1 p.2 d) from rfl, ih hps, hstep]
    by_cases h : (r, c) = p
    · simp [h, hp]
    · simp [h]

/-- The collision flag: one of the pixels was on before the pass. -/
theorem coll_drawPixels {ps : List Pixel} (hps : ps.Nodup) (d : Drawing) :
    (drawPixels ps d).2 = true ↔ d.2 = true ∨ ∃ p ∈ ps, d.1.px p.1 p.2 = true := by
  induction ps generalizing d with
  | nil => simp [drawPixels]
  | cons p ps ih =>
    obtain ⟨hp, hps⟩ := List.nodup_cons.1 hps
    have hkept (q : Pixel) (hq : q ∈ ps) : (drawPixel p.1 p.2 d).1.px q.1 q.2 = d.1.px q.1 q.2 := by
      rw [drawPixel, Framebuffer.px_flip, if_neg]
      rintro ⟨hr, hc⟩
      exact hp (Prod.ext hr hc ▸ hq)
    have hrest : (∃ q ∈ ps, (drawPixel p.1 p.2 d).1.px q.1 q.2 = true) ↔ ∃ q ∈ ps, d.1.px q.1 q.2 = true :=
      exists_congr fun q => and_congr_right fun hq => by rw [hkept q hq]
    rw [show drawPixels (p :: ps) d = drawPixels ps (drawPixel p.1 p.2 d) from rfl, ih hps, hrest]
    simp [drawPixel, or_assoc]

/-! ### The pixels of a sprite -/

/-- The pixels under the 1 bits of a sprite row, at the columns of a list. -/
def rowPixels (x0 : Nat) (r : Fin 32) (b : Byte) (cols : List Nat) : List Pixel :=
  (cols.filter (spriteBit b)).map fun col => (r, pixelCol x0 col)

/-- The pixels under the 1 bits of a sprite, from a row on. -/
def spritePixels (x0 y0 : Nat) : Nat → List Byte → List Pixel
  | _, [] => []
  | row, b :: bs => rowPixels x0 (pixelRow y0 row) b [0, 1, 2, 3, 4, 5, 6, 7] ++ spritePixels x0 y0 (row + 1) bs

theorem drawCols_eq (x0 : Nat) (r : Fin 32) (b : Byte) (cols : List Nat) (d : Drawing) :
    drawCols x0 r b cols d = drawPixels (rowPixels x0 r b cols) d := by
  induction cols generalizing d with
  | nil => rfl
  | cons col cols ih =>
    rw [drawCols, ih]
    by_cases h : spriteBit b col = true
    · simp [rowPixels, drawPixels, h]
    · simp [rowPixels, drawPixels, h]

theorem drawRows_eq (x0 y0 row : Nat) (bs : List Byte) (d : Drawing) :
    drawRows x0 y0 row bs d = drawPixels (spritePixels x0 y0 row bs) d := by
  induction bs generalizing row d with
  | nil => rfl
  | cons b bs ih => rw [drawRows, ih, drawCols_eq, spritePixels, drawPixels_append]

theorem mem_rowPixels {x0 : Nat} {r : Fin 32} {b : Byte} {p : Pixel} :
    p ∈ rowPixels x0 r b [0, 1, 2, 3, 4, 5, 6, 7] ↔ ∃ col < 8, spriteBit b col = true ∧ p = (r, pixelCol x0 col) := by
  have hcols (col : Nat) : col ∈ [0, 1, 2, 3, 4, 5, 6, 7] ↔ col < 8 := List.mem_range (n := 8)
  simp only [rowPixels, List.mem_map, List.mem_filter, hcols, and_assoc, eq_comm]

theorem mem_spritePixels {x0 y0 row : Nat} {bs : List Byte} {p : Pixel} : p ∈ spritePixels x0 y0 row bs ↔
    ∃ k, ∃ hk : k < bs.length, ∃ col < 8,
      spriteBit bs[k] col = true ∧ p = (pixelRow y0 (row + k), pixelCol x0 col) := by
  induction bs generalizing row with
  | nil => simp [spritePixels]
  | cons b bs ih =>
    rw [spritePixels, List.mem_append, mem_rowPixels, ih]
    have hrow (k : Nat) : row + 1 + k = row + (k + 1) := by omega
    simp only [hrow]
    constructor
    · rintro (hfirst | ⟨k, hk, hrest⟩)
      · exact ⟨0, Nat.succ_pos _, hfirst⟩
      · exact ⟨k + 1, Nat.succ_lt_succ hk, hrest⟩
    · rintro ⟨k, hk, hpixel⟩
      cases k with
      | zero => exact .inl hpixel
      | succ k => exact .inr ⟨k, Nat.lt_of_succ_lt_succ hk, hpixel⟩

/-- Eight columns do not wrap onto each other. -/
theorem nodup_rowPixels (x0 : Nat) (r : Fin 32) (b : Byte) : (rowPixels x0 r b [0, 1, 2, 3, 4, 5, 6, 7]).Nodup := by
  have hcols : ([0, 1, 2, 3, 4, 5, 6, 7].filter (spriteBit b)).Nodup := List.Nodup.filter _ (by decide)
  refine hcols.map_on fun col hcol col' hcol' heq => ?_
  have hlt (k : Nat) (hk : k ∈ [0, 1, 2, 3, 4, 5, 6, 7].filter (spriteBit b)) : k < 8 :=
    List.mem_range.1 (List.mem_of_mem_filter hk)
  have := hlt col hcol
  have := hlt col' hcol'
  have hmod : (x0 + col) % 64 = (x0 + col') % 64 := congrArg (fun p : Pixel => p.2.val) heq
  omega

/-- At most 32 rows do not wrap onto each other. -/
theorem nodup_spritePixels (x0 y0 row : Nat) (bs : List Byte) (h : bs.length ≤ 32) :
    (spritePixels x0 y0 row bs).Nodup := by
  induction bs generalizing row with
  | nil => exact List.nodup_nil
  | cons b bs ih =>
    rw [List.length_cons] at h
    refine (nodup_rowPixels x0 _ b).append (ih (row + 1) (by omega)) fun p hp hp' => ?_
    obtain ⟨_, _, _, rfl⟩ := mem_rowPixels.1 hp
    obtain ⟨k, hk, _, _, _, heq⟩ := mem_spritePixels.1 hp'
    have hmod : (y0 + row) % 32 = (y0 + (row + 1 + k)) % 32 := congrArg (fun p : Pixel => p.1.val) heq
    omega

/-! ### Executing a draw -/

/-- The pixels of the sprite of `DRW Vx, Vy, n` at `s`. -/
def drwPixels (s : State) (x y : Reg) (n : BitVec 4) : List Pixel :=
  spritePixels (s.reg x).toNat (s.reg y).toNat 0 (s.mem.readBytes s.i.toNat n.toNat)

variable {s : State} {x y : Reg} {n : BitVec 4}

theorem mem_drwPixels {r : Fin 32} {c : Fin 64} : (r, c) ∈ drwPixels s x y n ↔ SpriteCovers s x y n r c := by
  simp only [drwPixels, mem_spritePixels, Memory.length_readBytes, Memory.getElem_readBytes, SpriteCovers, spriteBit,
    Prod.mk.injEq, Fin.ext_iff, pixelRow, pixelCol, Nat.zero_add, exists_prop]
  grind

theorem nodup_drwPixels : (drwPixels s x y n).Nodup := by
  have := n.isLt
  exact nodup_spritePixels _ _ _ _ (by rw [Memory.length_readBytes]; omega)

theorem drawn_eq : drawn x y n s = ((s.setFb (drawPixels (drwPixels s x y n) (s.fb, false)).1).setReg flagReg
    (flagByte (drawPixels (drwPixels s x y n) (s.fb, false)).2)).advance := by
  rw [drawn, drawSprite, drawRows_eq]
  rfl

theorem px_drawn (r : Fin 32) (c : Fin 64) : (drawn x y n s).fb.px r c =
    if (r, c) ∈ drwPixels s x y n then !s.fb.px r c else s.fb.px r c := by
  rw [drawn_eq]
  exact px_drawPixels nodup_drwPixels (s.fb, false) r c

theorem flag_drawn : (drawn x y n s).reg 15 = flagByte (drawPixels (drwPixels s x y n) (s.fb, false)).2 := by
  rw [drawn_eq, State.reg_advance, State.flag_setReg]

theorem exec_drw_of_le (x y : Reg) (h : n = 0#4 ∨ s.i.toNat + n.toNat ≤ 4096) :
    exec (.drw x y n) s = .next (drawn x y n s) := by
  refine exec_drw_of_loadFault_eq_none x y (State.loadFault_eq_none.2 (h.imp ?_ id))
  rintro rfl
  rfl

end Sys2Proof.Machine

namespace Sys2Proof

open Machine

/-- Settles O27: each pixel of the sprite is flipped once, so its state before the draw decides the collision. -/
theorem drawXorsTheSprite : Obligations.DrawXorsTheSprite := by
  intro x y n s
  refine ⟨decodeWord_encode (i := .drw x y n) rfl, fun h => ⟨_, exec_drw_of_le x y h, fun r c hc => ?_,
    fun r c hc => ?_, fun ⟨r, c, hc, hon⟩ => ?_, fun hoff => ?_, State.advance_pc _, ?_, ?_⟩⟩
  · rw [px_drawn, if_pos (mem_drwPixels.2 hc)]
  · rw [px_drawn, if_neg (mt mem_drwPixels.1 hc)]
  · rw [flag_drawn]
    exact flagByte_of_true ((coll_drawPixels nodup_drwPixels _).2 (.inr ⟨(r, c), mem_drwPixels.2 hc, hon⟩))
  · rw [flag_drawn]
    refine flagByte_of_false (Bool.eq_false_iff.2 fun hcoll => ?_)
    obtain hfalse | ⟨p, hp, hon⟩ := (coll_drawPixels nodup_drwPixels _).1 hcoll
    · cases hfalse
    · rw [hoff p.1 p.2 (mem_drwPixels.1 hp)] at hon
      cases hon
  · intro r hr
    exact (s.setFb _).reg_setReg_of_ne (List.ne_of_not_mem_cons hr) _
  · simp [drawn, KeepsIndex, KeepsStack, KeepsTimers, KeepsMemory, KeepsEngine]

/-- One pixel on, under a sprite of that pixel alone. -/
def onePixelOn : State :=
  { State.reset with i := 0x0300, mem := [(0x300, 0x80)], fb := Framebuffer.blank.flip 0 0 }

/-- Refutes O28: the first draw at `onePixelOn` turns the one pixel of the sprite off, so the second, which turns it on
again, meets no pixel that is on, and its flag is 0 with a nonzero sprite byte. -/
theorem not_drawTwiceRestoresTheScreen : ¬ Obligations.DrawTwiceRestoresTheScreen := by
  intro h
  obtain ⟨t, u, ht, hu, -, hflag, -⟩ := h 0 1 1 onePixelOn (by decide) (by decide) (.inr (by decide))
  cases (exec_drw_of_le 0 1 (.inr (by decide))).symm.trans ht
  cases (exec_drw_of_le 0 1 (.inr (by decide))).symm.trans hu
  have hzero : (drawn 0 1 1 (drawn 0 1 1 onePixelOn)).reg 15 = 0x00 := by decide
  have hone := hflag ⟨0, by decide, by decide⟩
  rw [hzero] at hone
  cases hone

end Sys2Proof
